-- ==== Sys2Proof/Word.lean ====
section
/-! DEFINITION. The plain data of the engine: bytes, 32-bit values, and the character values of rule R92. -/

namespace Sys2Proof

/-- A byte: an unsigned 8-bit value (R9). -/
abbrev Byte := BitVec 8

/-- A 32-bit value on the ports: a signed integer (`INT_BITS` = 32, D12) or the bits of a binary32 number (`FLT`, D13). -/
abbrev Word := BitVec 32

/-- The open brace: start of frame (R92). -/
abbrev chLBrace : Byte := 0x7B
/-- The close brace: end of frame (R92). -/
abbrev chRBrace : Byte := 0x7D
/-- 'p', the path tag, lower case only (R92, R99). -/
abbrev chP : Byte := 0x70
/-- 'd', the data tag, lower case only (R92, R99). -/
abbrev chD : Byte := 0x64
/-- ':' (R92). -/
abbrev chColon : Byte := 0x3A
/-- ',' the item separator (R92). -/
abbrev chComma : Byte := 0x2C
/-- '.' the decimal point (R92). -/
abbrev chDot : Byte := 0x2E
/-- '-' (R92). -/
abbrev chMinus : Byte := 0x2D
/-- '0'; the digits are 0x30 to 0x39 (R92). -/
abbrev chZero : Byte := 0x30
/-- `SENT`, the sentinel byte (R7, D9). -/
abbrev sentinel : Byte := 0x00

end Sys2Proof
end

