-- ==== Sys2Proof/Syntax.lean ====
section
/-! DEFINITION. The names of the engine (queues, roles, parser states, types), the signals at its ports, and `Instr`: one
constructor for each row of spec/opcode_table.json. -/

namespace Sys2Proof

/-- The three queue instances (R2). -/
inductive QId where
  | rxq | fq | txq
deriving DecidableEq, Repr

/-- Who drives one side of a queue (R133). The parser, the dispatcher and the encoder are units of the engine, in the task
context; `intruder` is any agent that holds no role on any queue (R281). -/
inductive Role where
  | receiver      -- A_RX, the transport's receive side
  | transmitter   -- A_TX, the transport's transmit side
  | parser
  | dispatcher
  | encoder
  | intruder
deriving DecidableEq, Repr

/-- The eight parser states, in the order of their codes (R27). -/
inductive PState where
  | waitStart | waitP | waitPColon | readPath | waitD | waitDColon | readData | error
deriving DecidableEq, Repr

/-- The four payload types, in the order of their codes (R35). -/
inductive PType where
  | none | int | float | string
deriving DecidableEq, Repr

/-- The byte classes of a payload (R96). -/
inductive ByteClass where
  | digit | minus | comma | dot | other
deriving DecidableEq, Repr

/-- A Frame View record (R36) with its ghost generation (R44). -/
structure View where
  pathOff : Nat
  pathLen : Nat
  dataOff : Nat
  dataLen : Nat
  gen     : Nat
deriving DecidableEq, Repr

/-- One element for a queue, which names the queue: a byte for `RXQ` or `TXQ`, a Frame View for `FQ` (R22). -/
inductive QItem where
  | rxByte (b : Byte)
  | view (v : View)
  | txByte (b : Byte)
deriving DecidableEq, Repr

/-- One constructor per row of spec/opcode_table.json. An operand that the row's mask leaves free is a bit field of that width;
the other operands are the signals the row uses (R102 to R108). -/
inductive Instr where
  /-- P.OVF (R141): `st` is the state code of the key, `c` the dropped byte. -/
  | pOvf (st : BitVec 3) (c : Byte)
  /-- P.WS.LBRACE (R142) -/
  | pWsLbrace
  /-- P.WS.OTHER (R143) -/
  | pWsOther (c : Byte)
  /-- P.WP.P (R144) -/
  | pWpP
  /-- P.WP.OTHER (R145) -/
  | pWpOther (c : Byte)
  /-- P.WPC.COLON (R146) -/
  | pWpcColon
  /-- P.WPC.OTHER (R147) -/
  | pWpcOther (c : Byte)
  /-- P.RP.COLON (R148) -/
  | pRpColon
  /-- P.RP.OTHER (R149) -/
  | pRpOther (c : Byte)
  /-- P.WD.D (R150) -/
  | pWdD
  /-- P.WD.OTHER (R151) -/
  | pWdOther (c : Byte)
  /-- P.WDC.COLON (R152) -/
  | pWdcColon
  /-- P.WDC.OTHER (R153) -/
  | pWdcOther (c : Byte)
  /-- P.RD.RBRACE (R154) -/
  | pRdRbrace
  /-- P.RD.OTHER (R155) -/
  | pRdOther (c : Byte)
  /-- P.ER.LBRACE (R156) -/
  | pErLbrace
  /-- P.ER.OTHER (R157) -/
  | pErOther (c : Byte)
  /-- CLS.DIGIT.0_7 (R96): the byte 0x30 + d. -/
  | clsDigit07 (d : BitVec 3)
  /-- CLS.DIGIT.8_9 (R96): the byte 0x38 + d. -/
  | clsDigit89 (d : BitVec 1)
  /-- CLS.MINUS (R96) -/
  | clsMinus
  /-- CLS.COMMA (R96) -/
  | clsComma
  /-- CLS.DOT (R96) -/
  | clsDot
  /-- CLS.OTHER (R96) -/
  | clsOther (b : Byte)
  /-- P.POLL (R160) -/
  | pPoll
  /-- D.POLL (R170) -/
  | dPoll
  /-- N.SET (R220): `none` is `empty`, `some id` is `present(id)`. -/
  | nSet (cb : Option Nat)
  /-- E.NONE (R206) -/
  | eNone (path : List Byte)
  /-- E.INT (R207) -/
  | eInt (path : List Byte) (vals : List Word)
  /-- E.FLOAT (R208) -/
  | eFloat (path : List Byte) (vals : List Word)
  /-- E.STR (R209) -/
  | eStr (path : List Byte) (strs : List (List Byte))
  /-- CMD.RESERVED.0 (R101) -/
  | cmdReserved0
  /-- CMD.RESERVED.8_F (R101): the code is 8 + low. -/
  | cmdReserved8F (low : BitVec 3)
  /-- Q.PUSH (R122), driven by `who` -/
  | qPush (who : Role) (item : QItem)
  /-- Q.POP (R124), driven by `who` -/
  | qPop (who : Role) (q : QId)
  /-- RX.PUSH (R131) -/
  | rxPush (b : Byte)
  /-- TX.POP (R132) -/
  | txPop
  /-- RESET (R270) -/
  | rst
deriving DecidableEq, Repr

/-- The signals of one command on the task command port (R104). `cmd_vals` carries integers and `FLT` values as 32-bit words and
strings as byte sequences. -/
structure CmdSig where
  op    : BitVec 4
  path  : List Byte
  count : Nat
  words : List Word
  strs  : List (List Byte)
  cb    : Option Nat
deriving DecidableEq, Repr

/-- One transaction at a port: the key the table decodes and the operand signals beside it (R102 to R108). The generic queue port
has two sides; the key of a QPORT row is `pop_req ++ push_valid`, of which each side reads its own bit (R108). -/
inductive PortSig where
  | dbyte (b : Byte)
  | cmd (c : CmdSig)
  | qProducer (key : BitVec 2) (who : Role) (item : QItem)
  | qConsumer (key : BitVec 2) (who : Role) (q : QId)
  | rx (valid : BitVec 1) (data : Byte)
  | tx (req : BitVec 1)
  | rst (rst : BitVec 1)
deriving DecidableEq, Repr

/-- What the decoder reads: the parser's 11-bit key with the priority-0 precondition `w >= S` as a bit (R95), or a port's signals. -/
inductive Signal where
  | pbyte (full : Bool) (key : BitVec 11)
  | port (p : PortSig)
deriving DecidableEq, Repr

end Sys2Proof
end

