-- ==== Sys2Proof/WellFormed.lean ====
section
/-! DEFINITION. Which terms of `Instr` are instructions: the byte of an OTHER row is none that an earlier row takes (R95, R96), and
the operands of a command fit the port (LEN_BITS = 16, R7, R104). -/

namespace Sys2Proof

/-- A length or a count fits the port: at most `2^LEN_BITS - 1` (R104, D2). -/
def fitsPort (n : Nat) : Bool := n < 2 ^ 16

/-- A byte of class OTHER: none of the digits, '-', ',' and '.' (R96). -/
def isOtherByte (b : Byte) : Bool :=
  !(chZero ≤ b && b ≤ 0x39) && b != chMinus && b != chComma && b != chDot

/-- The check on the operands of each instruction. -/
def Instr.wf : Instr → Bool
  | .pOvf _ _ => true
  | .pWsLbrace => true
  | .pWsOther c => c != chLBrace
  | .pWpP => true
  | .pWpOther c => c != chP
  | .pWpcColon => true
  | .pWpcOther c => c != chColon
  | .pRpColon => true
  | .pRpOther c => c != chColon
  | .pWdD => true
  | .pWdOther c => c != chD
  | .pWdcColon => true
  | .pWdcOther c => c != chColon
  | .pRdRbrace => true
  | .pRdOther c => c != chRBrace
  | .pErLbrace => true
  | .pErOther c => c != chLBrace
  | .clsDigit07 _ => true
  | .clsDigit89 _ => true
  | .clsMinus => true
  | .clsComma => true
  | .clsDot => true
  | .clsOther b => isOtherByte b
  | .pPoll => true
  | .dPoll => true
  | .nSet _ => true
  | .eNone path => fitsPort path.length
  | .eInt path vals => fitsPort path.length && fitsPort vals.length
  | .eFloat path vals => fitsPort path.length && fitsPort vals.length
  | .eStr path strs => fitsPort path.length && fitsPort strs.length && strs.all (fun t => fitsPort t.length)
  | .cmdReserved0 => true
  | .cmdReserved8F _ => true
  | .qPush _ _ => true
  | .qPop _ _ => true
  | .rxPush _ => true
  | .txPop => true
  | .rst => true

end Sys2Proof
end

