-- ==== Sys2Proof/Decode.lean ====
section
/-! DEFINITION. The decoder: the tables of rules R95, R96, R105 and R108 with their match and mask values, what each row builds, and the
reading of a port's signals; then the encoder, from the same tables; then the host's numbering of the table's words. -/

namespace Sys2Proof

/-- The code of a parser state (R27). -/
def PState.code : PState → BitVec 3
  | .waitStart => 0 | .waitP => 1 | .waitPColon => 2 | .readPath => 3
  | .waitD => 4 | .waitDColon => 5 | .readData => 6 | .error => 7

/-- The parser state of a code (R27). -/
def PState.ofCode (k : BitVec 3) : PState :=
  if k = 0 then .waitStart else if k = 1 then .waitP else if k = 2 then .waitPColon else if k = 3 then .readPath
  else if k = 4 then .waitD else if k = 5 then .waitDColon else if k = 6 then .readData else .error

/-- The code of a payload type (R35). -/
def PType.code : PType → BitVec 2
  | .none => 0 | .int => 1 | .float => 2 | .string => 3

/-- The 11-bit key: the state code in bits 10:8, the input byte in bits 7:0 (R95). -/
def parserKey (st : BitVec 3) (c : Byte) : BitVec 11 := st ++ c

/-- The byte of a key (R95). -/
def keyByte (key : BitVec 11) : Byte := key.extractLsb' 0 8

/-- The state code of a key (R95). -/
def keyState (key : BitVec 11) : BitVec 3 := key.extractLsb' 8 3

/-- A row of the PBYTE table (R95): `full` is its precondition, true for `w >= S`. -/
structure PByteRow where
  mnemonic : String
  priority : Nat
  full  : Bool
  value : BitVec 11
  mask  : BitVec 11
  build : BitVec 3 → Byte → Instr

/-- The table of rule R95, in the order the rows are tried: by increasing priority number. -/
def pbyteTable : List PByteRow :=
  [ ⟨"P.OVF",       0, true,  0x000, 0x000, fun st c => .pOvf st c⟩,
    ⟨"P.WS.LBRACE", 1, false, 0x07B, 0x7FF, fun _ _ => .pWsLbrace⟩,
    ⟨"P.WP.P",      1, false, 0x170, 0x7FF, fun _ _ => .pWpP⟩,
    ⟨"P.WPC.COLON", 1, false, 0x23A, 0x7FF, fun _ _ => .pWpcColon⟩,
    ⟨"P.RP.COLON",  1, false, 0x33A, 0x7FF, fun _ _ => .pRpColon⟩,
    ⟨"P.WD.D",      1, false, 0x464, 0x7FF, fun _ _ => .pWdD⟩,
    ⟨"P.WDC.COLON", 1, false, 0x53A, 0x7FF, fun _ _ => .pWdcColon⟩,
    ⟨"P.RD.RBRACE", 1, false, 0x67D, 0x7FF, fun _ _ => .pRdRbrace⟩,
    ⟨"P.ER.LBRACE", 1, false, 0x77B, 0x7FF, fun _ _ => .pErLbrace⟩,
    ⟨"P.WS.OTHER",  2, false, 0x000, 0x700, fun _ c => .pWsOther c⟩,
    ⟨"P.WP.OTHER",  2, false, 0x100, 0x700, fun _ c => .pWpOther c⟩,
    ⟨"P.WPC.OTHER", 2, false, 0x200, 0x700, fun _ c => .pWpcOther c⟩,
    ⟨"P.RP.OTHER",  2, false, 0x300, 0x700, fun _ c => .pRpOther c⟩,
    ⟨"P.WD.OTHER",  2, false, 0x400, 0x700, fun _ c => .pWdOther c⟩,
    ⟨"P.WDC.OTHER", 2, false, 0x500, 0x700, fun _ c => .pWdcOther c⟩,
    ⟨"P.RD.OTHER",  2, false, 0x600, 0x700, fun _ c => .pRdOther c⟩,
    ⟨"P.ER.OTHER",  2, false, 0x700, 0x700, fun _ c => .pErOther c⟩ ]

/-- The row that rule R95 selects: the first whose precondition holds and for which `key & mask == match`. -/
def selectPByte (full : Bool) (key : BitVec 11) : Option PByteRow :=
  pbyteTable.find? (fun r => r.full == full && key &&& r.mask == r.value)

/-- A row of the DBYTE table (R96). -/
structure DByteRow where
  mnemonic : String
  priority : Nat
  cls   : ByteClass
  value : Byte
  mask  : Byte
  build : Byte → Instr

/-- The table of rule R96, in order of priority. -/
def dbyteTable : List DByteRow :=
  [ ⟨"CLS.DIGIT.0_7", 1, .digit, 0x30, 0xF8, fun b => .clsDigit07 (b.extractLsb' 0 3)⟩,
    ⟨"CLS.DIGIT.8_9", 1, .digit, 0x38, 0xFE, fun b => .clsDigit89 (b.extractLsb' 0 1)⟩,
    ⟨"CLS.MINUS",     1, .minus, 0x2D, 0xFF, fun _ => .clsMinus⟩,
    ⟨"CLS.COMMA",     1, .comma, 0x2C, 0xFF, fun _ => .clsComma⟩,
    ⟨"CLS.DOT",       1, .dot,   0x2E, 0xFF, fun _ => .clsDot⟩,
    ⟨"CLS.OTHER",     2, .other, 0x00, 0x00, fun b => .clsOther b⟩ ]

/-- The row of rule R96 that a data byte selects. -/
def selectDByte (b : Byte) : Option DByteRow :=
  dbyteTable.find? (fun r => b &&& r.mask == r.value)

/-- The class of a data byte (R96); the lowest-priority row takes every byte, so the default is never used. -/
def byteClass (b : Byte) : ByteClass :=
  match selectDByte b with
  | some r => r.cls
  | none => .other

/-- A row of the CMD table (R101, R105). -/
structure CmdRow where
  mnemonic : String
  value : BitVec 4
  mask  : BitVec 4
  build : CmdSig → Instr

/-- The table of rule R105 with the two reserved rows of rule R101. -/
def cmdTable : List CmdRow :=
  [ ⟨"P.POLL",  0x1, 0xF, fun _ => .pPoll⟩,
    ⟨"D.POLL",  0x2, 0xF, fun _ => .dPoll⟩,
    ⟨"N.SET",   0x3, 0xF, fun c => .nSet c.cb⟩,
    ⟨"E.NONE",  0x4, 0xF, fun c => .eNone c.path⟩,
    ⟨"E.INT",   0x5, 0xF, fun c => .eInt c.path c.words⟩,
    ⟨"E.FLOAT", 0x6, 0xF, fun c => .eFloat c.path c.words⟩,
    ⟨"E.STR",   0x7, 0xF, fun c => .eStr c.path c.strs⟩,
    ⟨"CMD.RESERVED.0",   0x0, 0xF, fun _ => .cmdReserved0⟩,
    ⟨"CMD.RESERVED.8_F", 0x8, 0x8, fun c => .cmdReserved8F (c.op.extractLsb' 0 3)⟩ ]

/-- The row that `cmd_op` selects. -/
def selectCmd (op : BitVec 4) : Option CmdRow :=
  cmdTable.find? (fun r => op &&& r.mask == r.value)

/-- Why signals are no instruction. -/
inductive DecodeError where
  /-- no request line is high: no transaction (R102, R103, R107, R108) -/
  | noRequest
  /-- no row of the table matches; unreachable, the tables are total (R95, R96, R105) -/
  | noRow
  /-- `cmd_count` is not the number of values presented (R104) -/
  | countMismatch
  /-- a length or count that the port's LEN_BITS cannot carry (R104) -/
  | tooLong
deriving DecidableEq, Repr

/-- `cmd_count` names the number of values: of the words for E.INT and E.FLOAT, of the byte sequences for E.STR (R104, R105). -/
def CmdSig.countOk (c : CmdSig) : Bool :=
  if c.op = 0x5 ∨ c.op = 0x6 then c.count == c.words.length
  else if c.op = 0x7 then c.count == c.strs.length
  else true

/-- An instruction that fits the port, or the rejection. -/
def checkFit (i : Instr) : Except DecodeError Instr :=
  if i.wf then .ok i else .error .tooLong

/-- The instruction of a parser key (R95). -/
def decodeKey (full : Bool) (key : BitVec 11) : Except DecodeError Instr :=
  match selectPByte full key with
  | some r => .ok (r.build (keyState key) (keyByte key))
  | none => .error .noRow

/-- The instruction of a data byte (R96). -/
def decodeDByte (b : Byte) : Except DecodeError Instr :=
  match selectDByte b with
  | some r => .ok (r.build b)
  | none => .error .noRow

/-- The instruction of a command (R101, R104, R105). A reserved code uses no operand. -/
def decodeCmd (c : CmdSig) : Except DecodeError Instr :=
  match selectCmd c.op with
  | some r => if c.countOk then checkFit (r.build c) else .error .countMismatch
  | none => .error .noRow

/-- The instruction of a port's signals: Q.PUSH is match 0x1 mask 0x1, Q.POP match 0x2 mask 0x2, the one-bit ports match 0x1 mask 0x1
(R102, R103, R107, R108). -/
def decodePort : PortSig → Except DecodeError Instr
  | .dbyte b => decodeDByte b
  | .cmd c => decodeCmd c
  | .qProducer key who item => if key &&& 0x1 = 0x1 then .ok (.qPush who item) else .error .noRequest
  | .qConsumer key who q => if key &&& 0x2 = 0x2 then .ok (.qPop who q) else .error .noRequest
  | .rx valid data => if valid = 1 then .ok (.rxPush data) else .error .noRequest
  | .tx req => if req = 1 then .ok .txPop else .error .noRequest
  | .rst r => if r = 1 then .ok .rst else .error .noRequest

/-- The decoder, total on every signal, rejecting by name. -/
def decode : Signal → Except DecodeError Instr
  | .pbyte full key => decodeKey full key
  | .port p => decodePort p

/-! ## The encoder -/

/-- A command with no operands. -/
def CmdSig.ofOp (op : BitVec 4) : CmdSig := ⟨op, [], 0, [], [], none⟩

/-- The parser key of a state and a byte, with `w < S` (R95). -/
def encodeKey (st : PState) (c : Byte) : Signal := .pbyte false (parserKey st.code c)

/-- The signals of an instruction, from the tables of R95, R96, R105 and R108. -/
def encode : Instr → Signal
  | .pOvf st c => .pbyte true (parserKey st c)
  | .pWsLbrace => encodeKey .waitStart chLBrace
  | .pWsOther c => encodeKey .waitStart c
  | .pWpP => encodeKey .waitP chP
  | .pWpOther c => encodeKey .waitP c
  | .pWpcColon => encodeKey .waitPColon chColon
  | .pWpcOther c => encodeKey .waitPColon c
  | .pRpColon => encodeKey .readPath chColon
  | .pRpOther c => encodeKey .readPath c
  | .pWdD => encodeKey .waitD chD
  | .pWdOther c => encodeKey .waitD c
  | .pWdcColon => encodeKey .waitDColon chColon
  | .pWdcOther c => encodeKey .waitDColon c
  | .pRdRbrace => encodeKey .readData chRBrace
  | .pRdOther c => encodeKey .readData c
  | .pErLbrace => encodeKey .error chLBrace
  | .pErOther c => encodeKey .error c
  | .clsDigit07 d => .port (.dbyte (0x06#5 ++ d))
  | .clsDigit89 d => .port (.dbyte (0x1C#7 ++ d))
  | .clsMinus => .port (.dbyte chMinus)
  | .clsComma => .port (.dbyte chComma)
  | .clsDot => .port (.dbyte chDot)
  | .clsOther b => .port (.dbyte b)
  | .pPoll => .port (.cmd (.ofOp 0x1))
  | .dPoll => .port (.cmd (.ofOp 0x2))
  | .nSet cb => .port (.cmd { CmdSig.ofOp 0x3 with cb := cb })
  | .eNone path => .port (.cmd { CmdSig.ofOp 0x4 with path := path })
  | .eInt path vals => .port (.cmd { CmdSig.ofOp 0x5 with path := path, count := vals.length, words := vals })
  | .eFloat path vals => .port (.cmd { CmdSig.ofOp 0x6 with path := path, count := vals.length, words := vals })
  | .eStr path strs => .port (.cmd { CmdSig.ofOp 0x7 with path := path, count := strs.length, strs := strs })
  | .cmdReserved0 => .port (.cmd (.ofOp 0x0))
  | .cmdReserved8F low => .port (.cmd (.ofOp (1#1 ++ low)))
  | .qPush who item => .port (.qProducer 0x1 who item)
  | .qPop who q => .port (.qConsumer 0x2 who q)
  | .rxPush b => .port (.rx 1 b)
  | .txPop => .port (.tx 1)
  | .rst => .port (.rst 1)

/-! ## The rows of spec/opcode_table.json -/

/-- The number a signal's key reads as: the bits a row of the table matches. -/
def Signal.key : Signal → Nat
  | .pbyte _ key => key.toNat
  | .port (.dbyte b) => b.toNat
  | .port (.cmd c) => c.op.toNat
  | .port (.qProducer key _ _) => key.toNat
  | .port (.qConsumer key _ _) => key.toNat
  | .port (.rx valid _) => valid.toNat
  | .port (.tx req) => req.toNat
  | .port (.rst r) => r.toNat

/-- The mnemonic, match and mask of an instruction's row in spec/opcode_table.json. -/
def Instr.row : Instr → String × Nat × Nat
  | .pOvf _ _ => ("P.OVF", 0x000, 0x000)
  | .pWsLbrace => ("P.WS.LBRACE", 0x07B, 0x7FF)
  | .pWsOther _ => ("P.WS.OTHER", 0x000, 0x700)
  | .pWpP => ("P.WP.P", 0x170, 0x7FF)
  | .pWpOther _ => ("P.WP.OTHER", 0x100, 0x700)
  | .pWpcColon => ("P.WPC.COLON", 0x23A, 0x7FF)
  | .pWpcOther _ => ("P.WPC.OTHER", 0x200, 0x700)
  | .pRpColon => ("P.RP.COLON", 0x33A, 0x7FF)
  | .pRpOther _ => ("P.RP.OTHER", 0x300, 0x700)
  | .pWdD => ("P.WD.D", 0x464, 0x7FF)
  | .pWdOther _ => ("P.WD.OTHER", 0x400, 0x700)
  | .pWdcColon => ("P.WDC.COLON", 0x53A, 0x7FF)
  | .pWdcOther _ => ("P.WDC.OTHER", 0x500, 0x700)
  | .pRdRbrace => ("P.RD.RBRACE", 0x67D, 0x7FF)
  | .pRdOther _ => ("P.RD.OTHER", 0x600, 0x700)
  | .pErLbrace => ("P.ER.LBRACE", 0x77B, 0x7FF)
  | .pErOther _ => ("P.ER.OTHER", 0x700, 0x700)
  | .clsDigit07 _ => ("CLS.DIGIT.0_7", 0x30, 0xF8)
  | .clsDigit89 _ => ("CLS.DIGIT.8_9", 0x38, 0xFE)
  | .clsMinus => ("CLS.MINUS", 0x2D, 0xFF)
  | .clsComma => ("CLS.COMMA", 0x2C, 0xFF)
  | .clsDot => ("CLS.DOT", 0x2E, 0xFF)
  | .clsOther _ => ("CLS.OTHER", 0x00, 0x00)
  | .pPoll => ("P.POLL", 0x1, 0xF)
  | .dPoll => ("D.POLL", 0x2, 0xF)
  | .nSet _ => ("N.SET", 0x3, 0xF)
  | .eNone _ => ("E.NONE", 0x4, 0xF)
  | .eInt _ _ => ("E.INT", 0x5, 0xF)
  | .eFloat _ _ => ("E.FLOAT", 0x6, 0xF)
  | .eStr _ _ => ("E.STR", 0x7, 0xF)
  | .cmdReserved0 => ("CMD.RESERVED.0", 0x0, 0xF)
  | .cmdReserved8F _ => ("CMD.RESERVED.8_F", 0x8, 0x8)
  | .qPush _ _ => ("Q.PUSH", 0x1, 0x1)
  | .qPop _ _ => ("Q.POP", 0x2, 0x2)
  | .rxPush _ => ("RX.PUSH", 0x1, 0x1)
  | .txPop => ("TX.POP", 0x1, 0x1)
  | .rst => ("RESET", 0x1, 0x1)

/-! ## The host's numbering of the table's words

The seven decode spaces of rule R109 share one number line, so a word of at most one byte can be read in one space only (log entry 15):
numbers below 0x10 are command codes, larger bytes are data bytes, and two-byte words are parser keys with `w < S`. -/

/-- The signals that a word of the table stands for. -/
def signalOfTableWord (nbits w : Nat) : Option Signal :=
  if nbits ≤ 8 then
    if w < 0x10 then some (.port (.cmd (.ofOp (BitVec.ofNat 4 w))))
    else if w < 0x100 then some (.port (.dbyte (BitVec.ofNat 8 w)))
    else none
  else if w < 0x800 then some (.pbyte false (BitVec.ofNat 11 w))
  else none

/-- The instruction the decoder reads from a word of the table. -/
def decodeTableWord (nbits w : Nat) : Option Instr :=
  match signalOfTableWord nbits w with
  | some sig =>
    match decode sig with
    | .ok i => some i
    | .error _ => none
  | none => none

end Sys2Proof
end

