-- ==== Sys2Proof/Config.lean ====
section
/-! DEFINITION. The configuration of an engine, fixed when it is built (R7, R20, R273), and the free values: what the spec leaves open. -/

namespace Sys2Proof

/-- How a queue sees the other side's index (R7, D3, P7). -/
inductive SyncMode where
  | immediate | synchronised
deriving DecidableEq, Repr

/-- A route entry (R34): `path` carries its length and may be empty; `handler` is an opaque identifier. -/
structure Route where
  path     : List Byte
  expected : PType
  handler  : Nat
deriving DecidableEq, Repr

/-- The open parameters of rule R7, with the bounds the spec puts on them: a configuration outside them (U21) cannot be built. -/
structure Config where
  /-- C_RX, the slots of RXQ -/
  cRx    : Nat
  /-- C_FQ, the slots of FQ -/
  cFq    : Nat
  /-- C_TX, the slots of TXQ -/
  cTx    : Nat
  /-- S, the bytes of the scratch buffer -/
  size   : Nat
  /-- K, the most items of one frame -/
  maxItems : Nat
  /-- SYNC(RXQ) -/
  rxSync : SyncMode
  /-- SYNC(TXQ) -/
  txSync : SyncMode
  /-- ROUTES -/
  routes : List Route
  cRx_gt : 1 < cRx
  cFq_gt : 1 < cFq
  cTx_gt : 1 < cTx
  size_ge : 2 ≤ size
  maxItems_ge : 1 ≤ maxItems
deriving DecidableEq, Repr

/-- Capacity and index visibility of one queue. -/
structure Geometry where
  cap  : Nat
  sync : SyncMode
deriving DecidableEq, Repr

/-- RXQ's geometry. -/
def Config.rx (c : Config) : Geometry := ⟨c.cRx, c.rxSync⟩
/-- FQ's geometry: `SYNC(FQ) = Immediate` (R7, R74). -/
def Config.fq (c : Config) : Geometry := ⟨c.cFq, .immediate⟩
/-- TXQ's geometry. -/
def Config.tx (c : Config) : Geometry := ⟨c.cTx, c.txSync⟩

/-- The configuration of `State.reset` (DESIGN CHOICE, log entry 1): both transport queues Synchronised as D3 decides, and a route table
with the paths of the examples in R93 and one String route. -/
def Config.sample : Config where
  cRx := 64
  cFq := 4
  cTx := 64
  size := 32
  maxItems := 4
  rxSync := .synchronised
  txSync := .synchronised
  routes :=
    [ ⟨[0x63, 0x74, 0x72, 0x6C, 0x2F, 0x61, 0x72, 0x6D], .int, 0⟩,
      ⟨[0x73, 0x65, 0x6E, 0x73, 0x2F, 0x49, 0x4D, 0x55, 0x2F, 0x67, 0x79, 0x72, 0x6F], .float, 1⟩,
      ⟨[0x73, 0x79, 0x73, 0x74, 0x65, 0x6D, 0x2F, 0x72, 0x65, 0x73, 0x65, 0x74], .none, 2⟩,
      ⟨[0x63, 0x66, 0x67, 0x2F, 0x6D, 0x6F, 0x64, 0x65], .string, 3⟩ ]
  cRx_gt := by decide
  cFq_gt := by decide
  cTx_gt := by decide
  size_ge := by decide
  maxItems_ge := by decide

/-- The value of ParseInt outside the 32-bit range, at the n-th draw: any value (R181, U4; log entry 5). -/
opaque Config.freeInt : Nat → Word

/-- The value of RoundFLT beyond the finite range of binary32, at the n-th draw: any value (R183, U5; log entry 6). -/
opaque Config.freeFloat : Nat → Word

end Sys2Proof
end

