-- ==== Sys2Proof/Machine/State.lean ====
section
/-! DEFINITION. The state of the engine as plain data, the reasons a step can stop, and the state after reset. -/

namespace Sys2Proof.Machine

/-- A storage space (R38, R60): pairs of an address and the element it holds, addresses strictly rising. An unlisted address has no
value (U8): nothing has written it since reset. A storage of bytes is a list of `Host.Cell`. -/
abbrev Memory (α : Type) := List (Nat × α)

/-- The state of one Bounded Queue (R29, R120). The copies `prodSeen` and `consSeen` are used when the queue is Synchronised. -/
structure Queue (α : Type) where
  store    : Memory α
  prod     : Nat
  cons     : Nat
  prodSeen : Nat
  consSeen : Nat
deriving DecidableEq, Repr

/-- An empty queue as after reset (R50). -/
def Queue.empty (α : Type) : Queue α := ⟨[], 0, 0, 0, 0⟩

/-- The conditions of rule R240. They are labels in the trace and no hardware state. -/
inductive Event where
  | pushFull (q : QId)
  | popEmpty (q : QId)
  | malformed (st : PState) (c : Byte)
  | scratchOverflow (c : Byte)
  | frameqFull
  | routeMiss
  | typeMismatch (t expected : PType)
  | itemsTruncated (n : Nat)
  | encAbort (sent : Nat)
  | reservedOp (op : BitVec 4)
deriving DecidableEq, Repr

/-- One parsed item (R25): an integer, the bits of a binary32 number, or a slice of the scratch buffer with the bytes it denotes at
the call (R186). -/
inductive Val where
  | int (v : Word)
  | float (bits : Word)
  | str (off len : Nat) (bytes : List Byte)
deriving DecidableEq, Repr

/-- One handler invocation on the handler port (R106, R186). -/
structure HCall where
  route   : Nat
  handler : Nat
  type    : PType
  count   : Nat
  vals    : List Val
deriving DecidableEq, Repr

/-- What an output port shows (R102 to R106, R108). The item of a failed pop is absent (R13, U6). -/
inductive Out where
  /-- `push_ok` of a queue's producer port -/
  | pushOk (q : QId) (ok : Bool)
  /-- `pop_ok` and `pop_data` of RXQ's or TXQ's consumer port -/
  | popByte (q : QId) (b : Option Byte)
  /-- `pop_ok` and `pop_data` of FQ's consumer port -/
  | popView (v : Option View)
  /-- `cmd_done` with `cmd_ok` -/
  | cmdDone (ok : Bool)
  /-- a pulse of `tx_notify` with `tx_notify_id`, as it is emitted: when it reaches the transport is left open (U12; log entry 32) -/
  | notify (id : Nat)
  /-- a pulse of `h_valid` -/
  | call (h : HCall)
deriving DecidableEq, Repr

/-- The two tests of Classify (R175) over the bytes scanned so far. -/
structure Scan where
  other : Bool
  dot   : Bool
deriving DecidableEq, Repr

/-- No byte scanned yet. -/
def Scan.start : Scan := ⟨false, false⟩

/-- One turn of an agent (R262): the environment drives a port; the engine takes the next step of the running task operation; a
synchroniser of a queue moves. -/
inductive Turn where
  | port (p : PortSig)
  | task
  | syncP (q : QId)
  | syncC (q : QId)
deriving DecidableEq, Repr

/-- The whole engine (R20), with the ghosts and in-flight state of R44, R46 and R47, the trace of R11, the configuration of R7 and the
model's own fields. -/
structure State where
  /-- the configuration: read by every step, written by none (R7, R20) -/
  cfg : Config
  /-- RXQ (R2, R29) -/
  rx : Queue Byte
  /-- FQ (R2, R29) -/
  fq : Queue View
  /-- TXQ (R2, R29) -/
  tx : Queue Byte
  /-- SCR, the scratch buffer (R24) -/
  scr : Memory Byte
  /-- the parser's state register (R27) -/
  pstate : PState
  /-- the scratch write index (R30) -/
  w : Nat
  pathStart : Nat
  pathLen : Nat
  dataStart : Nat
  dataLen : Nat
  /-- the notifier slot: `none` is empty, `some id` is present(id) (R32) -/
  ncb : Option Nat
  /-- a P.POLL is running (R46) -/
  pollActive : Bool
  /-- the bytes of the running encoder operation not yet pushed (R47) -/
  encRem : List Byte
  /-- the spec's ghost generation (R44) -/
  scrGen : Nat
  /-- the model's own: bytes of the running frame already pushed, the info of EV_ENC_ABORT (R204, R240) -/
  encSent : Nat
  /-- the model's own: the running scan of Classify that the class rows advance (R96, R175) -/
  scan : Scan
  /-- the model's own: free values drawn so far (R181, R183) -/
  draws : Nat
  /-- the model's own: the turns still to come (R69, R253, R262) -/
  sched : List Turn
  /-- the event trace, oldest first (R11) -/
  events : List Event
  /-- the model's own: what the output ports have shown, oldest first -/
  outs : List Out
deriving DecidableEq, Repr

/-- Why the machine stops with a fault: the model faults of rule R245 and an access outside a storage. The engine detects none of them. -/
inductive Fault where
  /-- FAULT_STALE_VIEW: D.POLL popped a view whose frame the parser has left behind (R172, R280). Raised by D.POLL; safe. -/
  | staleView
  /-- FAULT_ROLE: an agent drove a queue side it does not hold (R133, R281). Raised by Q.PUSH and Q.POP and by a turn that drives an
  internal side; safe. -/
  | role
  /-- FAULT_UNINIT_READ: a slot or scratch byte was read that nothing has written since reset (R245, R272, U8). Raised by every pop
  and by D.POLL's reads; safe. -/
  | uninitRead
  /-- FAULT_RESET_BUSY: RESET while an operation is in flight (R271). Raised by RESET; safe. -/
  | resetBusy
  /-- A slot or scratch address outside its storage; rule R64 says it cannot arise. Raised by pushes, pops and D.POLL's reads; safe. -/
  | noSuchAddress
deriving DecidableEq, Repr

/-- Why an operation is not accepted. -/
inductive Refusal where
  /-- No meaning is modelled for the instruction; no arm uses it. -/
  | notModelled (mnemonic : String)
  /-- A transition row was executed where rule R95 does not select it. Raised by the P.* rows; a step never does it; safe. -/
  | rowNotSelected
  /-- A command while the previous one has not completed (R104, R263, U19). Raised by every row of the command port; safe. -/
  | commandBusy
  /-- REFUSE_FLOAT_RANGE: a value outside rule R213 (U7). Raised by E.FLOAT; safe. -/
  | floatRange
  /-- More than K values (R201, U17). Raised by E.INT, E.FLOAT and E.STR; safe. -/
  | tooManyValues
  /-- Signals that no port can carry: a count that is not the number of values, or a length beyond LEN_BITS (R104). Raised by a step; safe. -/
  | badSignals
deriving DecidableEq, Repr

/-- The state after reset of an engine built with the configuration `c` (R50, R270): every value is the spec's; the model's own fields
start empty (log entries 5, 7, 8). -/
def State.resetWith (c : Config) : State where
  cfg := c
  rx := Queue.empty Byte
  fq := Queue.empty View
  tx := Queue.empty Byte
  scr := []
  pstate := .waitStart
  w := 0
  pathStart := 0
  pathLen := 0
  dataStart := 0
  dataLen := 0
  ncb := none
  pollActive := false
  encRem := []
  scrGen := 0
  encSent := 0
  scan := Scan.start
  draws := 0
  sched := []
  events := []
  outs := []

/-- The machine right after reset (R50), of the sample configuration (log entry 1). -/
def State.reset : State := State.resetWith Config.sample

end Sys2Proof.Machine
end

