-- ==== Sys2Proof/Machine/Flags.lean ====
section
/-! DEFINITION. The predicates of a queue (R28): the engine stores no flag. -/

namespace Sys2Proof.Machine

variable {α : Type}

/-- The consumer index as the producer side sees it (R28, R121). -/
def Queue.consView (g : Geometry) (q : Queue α) : Nat :=
  match g.sync with
  | .synchronised => q.consSeen
  | .immediate => q.cons

/-- The producer index as the consumer side sees it (R28, R123). -/
def Queue.prodView (g : Geometry) (q : Queue α) : Nat :=
  match g.sync with
  | .synchronised => q.prodSeen
  | .immediate => q.prod

/-- An index advanced modulo the capacity (R29, R62). -/
def advance (g : Geometry) (i : Nat) : Nat := (i + 1) % g.cap

/-- `full_p`: the producer side's full test (R121). -/
def Queue.fullP (g : Geometry) (q : Queue α) : Bool := advance g q.prod == q.consView g

/-- `empty_c`: the consumer side's empty test (R123). -/
def Queue.emptyC (g : Geometry) (q : Queue α) : Bool := q.prodView g == q.cons

/-- A task operation is in flight (R46, R47): the command port accepts no command (R104). -/
def State.busy (s : State) : Bool := s.pollActive || s.encRem != []

end Sys2Proof.Machine
end

