-- ==== Sys2Proof/Machine/Ops.lean ====
section
/-! DEFINITION. The named operations: storage, the Bounded Queue, the trace and the output ports, the parser's index reset, entering
and leaving the parser's Error state, the notification, and the steps that no row selects (Q.SYNCP, Q.SYNCC, E.EMIT). -/

namespace Sys2Proof.Machine

variable {α : Type}

/-! ## Storage (R60, R64) -/

/-- The element at an address; `none` where nothing has written it (U8). -/
def Memory.read : Memory α → Nat → Option α
  | [], _ => none
  | (b, x) :: m, a => if a = b then some x else Memory.read m a

/-- Writes one element, keeping the addresses strictly rising. -/
def Memory.write : Memory α → Nat → α → Memory α
  | [], a, v => [(a, v)]
  | (b, x) :: m, a, v =>
    if a < b then (a, v) :: (b, x) :: m
    else if a = b then (a, v) :: m
    else (b, x) :: Memory.write m a v

/-- The canonical form: addresses strictly rising. An unlisted address reads as no value, so no entry can equal it. -/
abbrev Memory.wf (m : Memory α) : Prop := m.Pairwise (fun p q => p.1 < q.1)

/-- Every listed address is below `n`. -/
abbrev Memory.within (n : Nat) (m : Memory α) : Prop := ∀ p ∈ m, p.1 < n

/-- One scratch byte: a fault outside the buffer (R64) and where nothing has written it (U8). -/
def State.readScr (s : State) (a : Nat) : Except Fault Byte :=
  if a < s.cfg.size then
    match s.scr.read a with
    | some b => .ok b
    | none => .error .uninitRead
  else .error .noSuchAddress

/-- `scr[a] <- b` (R10). -/
def State.writeScr (s : State) (a : Nat) (b : Byte) : State := { s with scr := s.scr.write a b }

/-- The `n` scratch bytes from `off` up, as a slice denotes them (R36). -/
def State.readSlice (s : State) (off : Nat) : Nat → Except Fault (List Byte)
  | 0 => .ok []
  | n + 1 =>
    match s.readScr off with
    | .error f => .error f
    | .ok b =>
      match State.readSlice s (off + 1) n with
      | .error f => .error f
      | .ok bs => .ok (b :: bs)

/-! ## The Bounded Queue (R120 to R127) -/

/-- Q.PUSH on a queue (R122): `none` when the producer side sees it full, else the queue with the item stored and the producer index
advanced. -/
def Queue.push (g : Geometry) (q : Queue α) (x : α) : Except Fault (Option (Queue α)) :=
  if q.fullP g then .ok none
  else if q.prod < g.cap then
    .ok (some { q with store := q.store.write q.prod x, prod := advance g q.prod })
  else .error .noSuchAddress

/-- Q.POP on a queue (R124): `none` when the consumer side sees it empty, else the item and the queue with the consumer index
advanced; the slot is not cleared. -/
def Queue.pop (g : Geometry) (q : Queue α) : Except Fault (Option (α × Queue α)) :=
  if q.emptyC g then .ok none
  else if q.cons < g.cap then
    match q.store.read q.cons with
    | some x => .ok (some (x, { q with cons := advance g q.cons }))
    | none => .error .uninitRead
  else .error .noSuchAddress

/-- Q.SYNCP (R126): one increment of the consumer side's copy, when it is enabled; else nothing. -/
def Queue.syncP (g : Geometry) (q : Queue α) : Queue α :=
  match g.sync with
  | .synchronised => if q.prodSeen = q.prod then q else { q with prodSeen := advance g q.prodSeen }
  | .immediate => q

/-- Q.SYNCC (R127): one increment of the producer side's copy, when it is enabled; else nothing. -/
def Queue.syncC (g : Geometry) (q : Queue α) : Queue α :=
  match g.sync with
  | .synchronised => if q.consSeen = q.cons then q else { q with consSeen := advance g q.consSeen }
  | .immediate => q

/-- A step of the producer-to-consumer synchroniser of a queue (R126). -/
def State.syncP (s : State) : QId → State
  | .rxq => { s with rx := s.rx.syncP s.cfg.rx }
  | .fq => { s with fq := s.fq.syncP s.cfg.fq }
  | .txq => { s with tx := s.tx.syncP s.cfg.tx }

/-- A step of the consumer-to-producer synchroniser of a queue (R127). -/
def State.syncC (s : State) : QId → State
  | .rxq => { s with rx := s.rx.syncC s.cfg.rx }
  | .fq => { s with fq := s.fq.syncC s.cfg.fq }
  | .txq => { s with tx := s.tx.syncC s.cfg.tx }

/-- Who holds the producer role of a queue (R133). -/
def producerOf : QId → Role
  | .rxq => .receiver
  | .fq => .parser
  | .txq => .encoder

/-- Who holds the consumer role of a queue (R133). -/
def consumerOf : QId → Role
  | .rxq => .parser
  | .fq => .dispatcher
  | .txq => .transmitter

/-- The queue an item is for. -/
def itemQueue : QItem → QId
  | .rxByte _ => .rxq
  | .view _ => .fq
  | .txByte _ => .txq

/-! ## The trace and the output ports -/

/-- `raise EV_X(info)`: appends to the event trace; control goes on (R11). -/
def State.raise (s : State) (e : Event) : State := { s with events := s.events ++ [e] }

/-- An output port shows something. -/
def State.emitOut (s : State) (o : Out) : State := { s with outs := s.outs ++ [o] }

/-- A command completes with `cmd_ok = ok` (R104, R105). -/
def State.done (s : State) (ok : Bool) : State := s.emitOut (.cmdDone ok)

/-! ## Queues of the machine, with the events of R122 and R124 -/

/-- Q.PUSH on RXQ: the state after it and the result. -/
def State.pushRx (s : State) (b : Byte) : Except Fault (State × Bool) :=
  match s.rx.push s.cfg.rx b with
  | .error f => .error f
  | .ok none => .ok (s.raise (.pushFull .rxq), false)
  | .ok (some q) => .ok ({ s with rx := q }, true)

/-- Q.PUSH on FQ: the state after it and the result. -/
def State.pushFq (s : State) (v : View) : Except Fault (State × Bool) :=
  match s.fq.push s.cfg.fq v with
  | .error f => .error f
  | .ok none => .ok (s.raise (.pushFull .fq), false)
  | .ok (some q) => .ok ({ s with fq := q }, true)

/-- Q.PUSH on TXQ: the state after it and the result. -/
def State.pushTx (s : State) (b : Byte) : Except Fault (State × Bool) :=
  match s.tx.push s.cfg.tx b with
  | .error f => .error f
  | .ok none => .ok (s.raise (.pushFull .txq), false)
  | .ok (some q) => .ok ({ s with tx := q }, true)

/-- Q.POP on RXQ: the state after it and the item, absent when the pop fails. -/
def State.popRx (s : State) : Except Fault (State × Option Byte) :=
  match s.rx.pop s.cfg.rx with
  | .error f => .error f
  | .ok none => .ok (s.raise (.popEmpty .rxq), none)
  | .ok (some (b, q)) => .ok ({ s with rx := q }, some b)

/-- Q.POP on FQ: the state after it and the item, absent when the pop fails. -/
def State.popFq (s : State) : Except Fault (State × Option View) :=
  match s.fq.pop s.cfg.fq with
  | .error f => .error f
  | .ok none => .ok (s.raise (.popEmpty .fq), none)
  | .ok (some (v, q)) => .ok ({ s with fq := q }, some v)

/-- Q.POP on TXQ: the state after it and the item, absent when the pop fails. -/
def State.popTx (s : State) : Except Fault (State × Option Byte) :=
  match s.tx.pop s.cfg.tx with
  | .error f => .error f
  | .ok none => .ok (s.raise (.popEmpty .txq), none)
  | .ok (some (b, q)) => .ok ({ s with tx := q }, some b)

/-- The producer's port shows the result of a push. -/
def pushResult (q : QId) (r : Except Fault (State × Bool)) : Host.Outcome State Fault Refusal :=
  match r with
  | .error f => .fault f
  | .ok (s, ok) => .next (s.emitOut (.pushOk q ok))

/-- The consumer's port of a byte queue shows the result of a pop. -/
def popByteResult (q : QId) (r : Except Fault (State × Option Byte)) : Host.Outcome State Fault Refusal :=
  match r with
  | .error f => .fault f
  | .ok (s, b) => .next (s.emitOut (.popByte q b))

/-- FQ's consumer port shows the result of a pop. -/
def popViewResult (r : Except Fault (State × Option View)) : Host.Outcome State Fault Refusal :=
  match r with
  | .error f => .fault f
  | .ok (s, v) => .next (s.emitOut (.popView v))

/-! ## The parser's shared operations -/

/-- `reset_idx` (R31): the five indices, and nothing else. -/
def State.resetIdx (s : State) : State :=
  { s with w := 0, pathStart := 0, pathLen := 0, dataStart := 0, dataLen := 0 }

/-- Entering the parser's Error state (R254), the analogue of taking an exception: nothing is saved, control goes nowhere, the
condition is recorded in the trace only. P.OVF and P.RD.RBRACE clear the indices before it. -/
def State.enterError (s : State) (e : Event) : State := ({ s with pstate := .error } : State).raise e

/-- The start of a frame at an open brace (R142, R156); out of Error it is the only return (R255). The ghost generation moves on. -/
def State.beginFrame (s : State) : State :=
  { s.resetIdx with scrGen := s.scrGen + 1, pstate := .waitP }

/-- Appends one byte to the scratch buffer (R149, R155). -/
def State.append (s : State) (c : Byte) : State :=
  let s1 := s.writeScr s.w c
  { s1 with w := s1.w + 1 }

/-- Whether rule R95 lets a row of state `st` run: the guard did not fire, the parser is in that state, and the byte is one of the
row's. -/
def State.inRow (s : State) (st : PState) (byteOk : Bool) : Bool :=
  s.pstate == st && decide (s.w < s.cfg.size) && byteOk

/-- A row's effect where it is selected, else the refusal (log entry 9). -/
def onRow (sel : Bool) (o : Host.Outcome State Fault Refusal) : Host.Outcome State Fault Refusal :=
  if sel then o else .refused .rowNotSelected

/-- The overflow guard of rule R141 holds. -/
def State.guard (s : State) : Bool := decide (s.cfg.size ≤ s.w)

/-- The signal rule R95 decodes for a byte in this state: the state's code and the byte, with the guard. -/
def State.byteSignal (s : State) (c : Byte) : Signal := .pbyte s.guard (parserKey s.pstate.code c)

/-! ## The command port, the notifier and the encoder's byte step -/

/-- A command runs only when the previous one has completed (R104, U19). -/
def onIdle (s : State) (o : Host.Outcome State Fault Refusal) : Host.Outcome State Fault Refusal :=
  if s.busy then .refused .commandBusy else o

/-- N.FIRE (R222): one pulse when a callback is registered, else nothing. `outs` shows its emission, in the push's own step; its delivery
is no step of the model and is not ordered against Q.SYNCP (U12, D25, R287; the model's choice, log entry 32). -/
def State.fire (s : State) : State :=
  match s.ncb with
  | some id => s.emitOut (.notify id)
  | none => s

/-- The start of an encoder operation (R203): the whole frame is computed before any byte is pushed. -/
def State.startFrame (s : State) (frame : List Byte) : State := { s with encRem := frame, encSent := 0 }

/-- E.EMIT (R204): pushes the next byte of the running frame, notifies, completes after the last; a full TXQ aborts the rest. The
notification is recorded as emitted here, so before any Q.SYNCP that exposes the byte: the model's choice (log entry 32). -/
def State.emit (s : State) : Host.Outcome State Fault Refusal :=
  match s.encRem with
  | [] => .next s
  | b :: rest =>
    match s.pushTx b with
    | .error f => .fault f
    | .ok (s1, true) =>
      match rest with
      | [] => .next (({ s1 with encRem := [], encSent := 0 } : State).fire.done true)
      | _ :: _ => .next ({ s1 with encRem := rest, encSent := s1.encSent + 1 } : State).fire
    | .ok (s1, false) =>
      .next ((({ s1 with encRem := [], encSent := 0 } : State).raise (.encAbort s1.encSent)).done false)

end Sys2Proof.Machine
end

