-- ==== Sys2Proof/Machine/Commands.lean ====
section
/-! DEFINITION. The remaining rows of the command port: P.POLL, N.SET and the reserved codes (R101, R160, R220). -/

namespace Sys2Proof.Machine

/-- P.POLL (R160): accepted; its iterations follow, one step each, until a pop finds RXQ empty (Fetch.lean). -/
def execPPoll (s : State) : Host.Outcome State Fault Refusal :=
  onIdle s (.next { s with pollActive := true })

/-- N.SET (R220) -/
def execNSet (cb : Option Nat) (s : State) : Host.Outcome State Fault Refusal :=
  onIdle s (.next (({ s with ncb := cb } : State).done true))

/-- A reserved code (R101): no state changes. Of the tests of one command it is the first (R252). -/
def State.reserved (s : State) (op : BitVec 4) : State := (s.raise (.reservedOp op)).done false

/-- CMD.RESERVED.0 (R101), accepted like any command only when the port is free (R104, R263; log entry 12). -/
def execCmdReserved0 (s : State) : Host.Outcome State Fault Refusal := onIdle s (.next (s.reserved 0x0))

/-- CMD.RESERVED.8_F (R101): the code is 8 + low; accepted only when the port is free (R104, R263; log entry 12). -/
def execCmdReserved8F (low : BitVec 3) (s : State) : Host.Outcome State Fault Refusal :=
  onIdle s (.next (s.reserved (1#1 ++ low)))

end Sys2Proof.Machine
end

