-- ==== Sys2Proof/Machine/Operands.lean ====
section
/-! DEFINITION. How the dispatcher turns payload bytes into values: the class scan, the items, ParseInt, ParseFloat and RoundFLT, the
split of a String payload, and the route match. -/

namespace Sys2Proof.Machine

/-! ## Route match (R173) -/

/-- The first entry whose path equals `path` byte for byte, with its index counted from `i`. -/
def matchRouteFrom (i : Nat) : List Route → List Byte → Option (Nat × Route)
  | [], _ => none
  | r :: rs, path => if r.path = path then some (i, r) else matchRouteFrom (i + 1) rs path

/-- MatchRoute (R173): the first path match wins. -/
def matchRoute (routes : List Route) (path : List Byte) : Option (Nat × Route) := matchRouteFrom 0 routes path

/-! ## Classification (R96, R175) -/

/-- The scan after one more byte class: the two tests of R175 look for OTHER and for DOT. -/
def Scan.add (sc : Scan) : ByteClass → Scan
  | .other => { sc with other := true }
  | .dot => { sc with dot := true }
  | .digit => sc
  | .minus => sc
  | .comma => sc

/-- The type R175 gives the bytes scanned: String if one was OTHER, else Float if one was DOT, else Int. -/
def Scan.type (sc : Scan) : PType :=
  if sc.other then .string else if sc.dot then .float else .int

/-- The scan of a whole payload, from the start. -/
def scanBytes (data : List Byte) : Scan := data.foldl (fun sc b => sc.add (byteClass b)) Scan.start

/-- Classify (R175). -/
def classify (data : List Byte) : PType := (scanBytes data).type

/-! ## Items (R97, R178) -/

/-- The items of the bytes that begin at position `pos`, each with the position of its first byte. Every comma separates; an empty item
is an item. -/
def itemsFrom (pos : Nat) : List Byte → List (Nat × List Byte)
  | [] => [(pos, [])]
  | c :: cs =>
    if c = chComma then (pos, []) :: itemsFrom (pos + 1) cs
    else
      match itemsFrom (pos + 1) cs with
      | [] => [(pos, [c])]
      | (_, bs) :: rest => (pos, c :: bs) :: rest

/-- Items (R178), with their positions in the payload. -/
def items (data : List Byte) : List (Nat × List Byte) := itemsFrom 0 data

/-! ## Numerals (R180 to R183) -/

/-- A digit byte (R92). -/
def isDigit (b : Byte) : Bool := chZero ≤ b && b ≤ 0x39

/-- The longest run of digits at the front of a list. -/
def digitRun (f : List Byte) : List Byte := f.takeWhile isDigit

/-- The value of a digit run, most significant first: an unbounded natural (R180). -/
def digitsValue (ds : List Byte) : Nat := ds.foldl (fun m b => 10 * m + (b.toNat - 0x30)) 0

/-- An item without its one leading '-', and whether it had one (R180, R182). -/
def splitSign : List Byte → Bool × List Byte
  | [] => (false, [])
  | c :: cs => if c = chMinus then (true, cs) else (false, c :: cs)

/-- ParseInt (R180) after `n` draws: the value and the draws after it. A field with no digit gives 0; a value outside the 32-bit range
is the next free value (R181). -/
def parseInt (n : Nat) (f : List Byte) : Word × Nat :=
  let (neg, body) := splitSign f
  let ds := digitRun body
  if ds = [] then (0, n)
  else
    let m := digitsValue ds
    let v : Int := if neg then -(m : Int) else (m : Int)
    if -2 ^ 31 ≤ v ∧ v ≤ 2 ^ 31 - 1 then (BitVec.ofInt 32 v, n)
    else (Config.freeInt n, n + 1)

/-- `n / d` rounded to the nearest natural, ties to even (R183); `d` is positive. -/
def divNearestEven (n d : Nat) : Nat :=
  let q := n / d
  let r := n % d
  if 2 * r < d then q
  else if d < 2 * r then q + 1
  else if q % 2 = 0 then q else q + 1

/-- The binary32 bits of the non-negative rational `n / d` rounded once to nearest even, in an unbounded exponent range (R183). The value is
counted in units of 2^-149, the least binary32 step; `e` is the exponent of the step that holds 24 significant bits. -/
def roundBits (n d : Nat) : Nat :=
  let units := n * 2 ^ 149
  let whole := units / d
  let e := if whole < 2 ^ 24 then 0 else whole.log2 - 23
  e * 2 ^ 23 + divNearestEven units (d * 2 ^ e)

/-- RoundFLT (R183) after `k` draws: a rounding past the finite range is the next free value. -/
def roundFloat (k n d : Nat) : Word × Nat :=
  let bits := roundBits n d
  if bits < 0x7F800000 then (BitVec.ofNat 32 bits, k) else (Config.freeFloat k, k + 1)

/-- The fraction digits of a field: the digit run after a '.' (R182). -/
def fractionRun : List Byte → List Byte
  | [] => []
  | c :: cs => if c = chDot then digitRun cs else []

/-- ParseFloat (R182) after `k` draws: the binary32 bits and the draws after it. -/
def parseFloat (k : Nat) (f : List Byte) : Word × Nat :=
  let (neg, body) := splitSign f
  let ip := digitRun body
  let fp := fractionRun (body.drop ip.length)
  if ip = [] ∧ fp = [] then (0, k)
  else
    let d := 10 ^ fp.length
    let (x, k1) := roundFloat k (digitsValue ip * d + digitsValue fp) d
    (if neg then x ^^^ 0x80000000 else x, k1)

/-- ParseInt of the items in order. -/
def parseInts (k : Nat) : List (List Byte) → List Val × Nat
  | [] => ([], k)
  | f :: fs =>
    let (v, k1) := parseInt k f
    let (vs, k2) := parseInts k1 fs
    (.int v :: vs, k2)

/-- ParseFloat of the items in order. -/
def parseFloats (k : Nat) : List (List Byte) → List Val × Nat
  | [] => ([], k)
  | f :: fs =>
    let (v, k1) := parseFloat k f
    let (vs, k2) := parseFloats k1 fs
    (.float v :: vs, k2)

/-! ## String payloads (R184, R186) -/

/-- SplitString (R184): every comma of the payload, whose first byte stands at `a`, becomes the sentinel. -/
def splitCommas (a : Nat) (data : List Byte) (m : Memory Byte) : Memory Byte :=
  match data with
  | [] => m
  | c :: cs => splitCommas (a + 1) cs (if c = chComma then m.write a sentinel else m)

/-- The slices of the items, with the bytes they denote in the scratch buffer now (R184, R186). -/
def sliceVals (s : State) (base : Nat) : List (Nat × List Byte) → Except Fault (List Val)
  | [] => .ok []
  | (pos, f) :: fs =>
    match s.readSlice (base + pos) f.length with
    | .error e => .error e
    | .ok bytes =>
      match sliceVals s base fs with
      | .error e => .error e
      | .ok vs => .ok (.str (base + pos) f.length bytes :: vs)

end Sys2Proof.Machine
end

