-- ==== Sys2Proof/Machine/Classes.lean ====
section
/-! DEFINITION. The six byte-class rows (R96): each advances the running scan of Classify (R175) by its class. -/

namespace Sys2Proof.Machine

/-- One data byte of class `k` passes the classifier (R96, R175). -/
def State.scanClass (s : State) (k : ByteClass) : State := { s with scan := s.scan.add k }

/-- CLS.DIGIT.0_7 (R96): the bytes 0x30 to 0x37. -/
def execClsDigit07 (_d : BitVec 3) (s : State) : Host.Outcome State Fault Refusal := .next (s.scanClass .digit)

/-- CLS.DIGIT.8_9 (R96): the bytes 0x38 and 0x39. -/
def execClsDigit89 (_d : BitVec 1) (s : State) : Host.Outcome State Fault Refusal := .next (s.scanClass .digit)

/-- CLS.MINUS (R96) -/
def execClsMinus (s : State) : Host.Outcome State Fault Refusal := .next (s.scanClass .minus)

/-- CLS.COMMA (R96) -/
def execClsComma (s : State) : Host.Outcome State Fault Refusal := .next (s.scanClass .comma)

/-- CLS.DOT (R96): the payload is a Float unless some byte is OTHER. -/
def execClsDot (s : State) : Host.Outcome State Fault Refusal := .next (s.scanClass .dot)

/-- CLS.OTHER (R96): the payload is a String. A byte of another class does not select this row. -/
def execClsOther (b : Byte) (s : State) : Host.Outcome State Fault Refusal :=
  onRow (isOtherByte b) (.next (s.scanClass .other))

end Sys2Proof.Machine
end

