-- ==== Sys2Proof/Machine/Dispatcher.lean ====
section
/-! DEFINITION. The Command Dispatcher: D.POLL and the handler call it makes (R170 to R188). The whole operation is one step (R187). -/

namespace Sys2Proof.Machine

/-- Classify (R175) as a run of the classifier: the scan starts over, takes every byte, gives the type, and is cleared again. -/
def State.scanData (s : State) (data : List Byte) : PType × State :=
  let s1 := data.foldl (fun t b => t.scanClass (byteClass b)) ({ s with scan := Scan.start } : State)
  (s1.scan.type, { s1 with scan := Scan.start })

/-- H.CALL (R186): one handler invocation on the handler port. -/
def State.callHandler (s : State) (r : Nat × Route) (t : PType) (vals : List Val) : State :=
  s.emitOut (.call ⟨r.1, r.2.handler, t, vals.length, vals⟩)

/-- Truncation (R179): the event when there are more than K items. -/
def State.noteTruncation (s : State) (n : Nat) : State :=
  if s.cfg.maxItems < n then s.raise (.itemsTruncated n) else s

/-- The items' values by the payload's type (R180, R182, R184), at most K of them; a String payload is split in place first. -/
def State.payloadVals (s : State) (v : View) (t : PType) (data : List Byte) : Except Fault (List Val × State) :=
  let its := (items data).take s.cfg.maxItems
  match t with
  | .int =>
    let (vals, k) := parseInts s.draws (its.map Prod.snd)
    .ok (vals, { s with draws := k })
  | .float =>
    let (vals, k) := parseFloats s.draws (its.map Prod.snd)
    .ok (vals, { s with draws := k })
  | .string =>
    let s1 : State := { s with scr := splitCommas v.dataOff data s.scr }
    match sliceVals s1 v.dataOff its with
    | .error f => .error f
    | .ok vals => .ok (vals, s1)
  | .none => .ok ([], s)

/-- Steps 3 to 6 for a matched route and a non-empty payload: classify, check the type, parse the items, call (R175 to R186). -/
def State.deliver (s : State) (v : View) (r : Nat × Route) (data : List Byte) : Host.Outcome State Fault Refusal :=
  let (t, s1) := s.scanData data
  if t = r.2.expected then
    let s2 := s1.noteTruncation (items data).length
    match s2.payloadVals v t data with
    | .error f => .fault f
    | .ok (vals, s3) => .next ((s3.callHandler r t vals).done true)
  else .next ((s1.raise (.typeMismatch t r.2.expected)).done true)

/-- Steps 1 and 2 for a view that is not stale: the route, and the call with None for empty data (R173, R174). -/
def State.dispatchView (s : State) (v : View) : Host.Outcome State Fault Refusal :=
  match s.readSlice v.pathOff v.pathLen with
  | .error f => .fault f
  | .ok path =>
    match matchRoute s.cfg.routes path with
    | none => .next ((s.raise .routeMiss).done true)
    | some r =>
      if v.dataLen = 0 then .next ((s.callHandler r .none []).done true)
      else
        match s.readSlice v.dataOff v.dataLen with
        | .error f => .fault f
        | .ok data => s.deliver v r data

/-- D.POLL (R170): at most one view is popped; a stale one is a fault (R172, R280). -/
def execDPoll (s : State) : Host.Outcome State Fault Refusal :=
  onIdle s
    (match s.popFq with
     | .error f => .fault f
     | .ok (s1, none) => .next (s1.done true)
     | .ok (s1, some v) => if v.gen = s1.scrGen then s1.dispatchView v else .fault .staleView)

end Sys2Proof.Machine
end

