-- ==== Sys2Proof/Machine/Format.lean ====
section
/-! DEFINITION. How the encoder writes values: Dec, FmtInt, FmtFloat, FmtStr, and the bytes of a frame. -/

namespace Sys2Proof.Machine

/-- Decimal digits, most significant first, with fuel for the recursion on `m / 10` (R210). -/
def decFuel : Nat → Nat → List Byte
  | 0, m => [chZero + BitVec.ofNat 8 (m % 10)]
  | k + 1, m =>
    if m < 10 then [chZero + BitVec.ofNat 8 m]
    else decFuel k (m / 10) ++ [chZero + BitVec.ofNat 8 (m % 10)]

/-- Dec (R210): the decimal text of a natural. The fuel is the number of its binary digits, never fewer than its decimal ones. -/
def dec (m : Nat) : List Byte := decFuel m.log2 m

/-- FmtInt (R210): the least value is special-cased, so that it is never negated in 32 bits (R211). -/
def fmtInt (v : Word) : List Byte :=
  if v = 0x80000000 then chMinus :: dec (2 ^ 31)
  else if v.msb then chMinus :: dec (-v).toNat
  else dec v.toNat

/-- The exponent field of a binary32 value. -/
def floatExp (x : Word) : Nat := (x.extractLsb' 23 8).toNat

/-- The fraction field of a binary32 value. -/
def floatFrac (x : Word) : Nat := (x.extractLsb' 0 23).toNat

/-- Neither a NaN nor an infinity. -/
def isFinite (x : Word) : Bool := floatExp x != 255

/-- |x| in units of 2^-149, exactly, for a finite x. -/
def floatUnits (x : Word) : Nat :=
  if floatExp x = 0 then floatFrac x else (2 ^ 23 + floatFrac x) * 2 ^ (floatExp x - 1)

/-- `x < 0`: false for both zeros (R212). -/
def floatNeg (x : Word) : Bool := x.msb && floatUnits x != 0

/-- The integer part and the thousandths of |x| after the carry (R212): nearest unit of 0.001, ties upward. -/
def floatParts (x : Word) : Nat × Nat :=
  let ip := floatUnits x / 2 ^ 149
  let fr := floatUnits x % 2 ^ 149
  let m := (2000 * fr + 2 ^ 149) / 2 ^ 150
  if m = 1000 then (ip + 1, 0) else (ip, m)

/-- The precondition of FmtFloat (R213). -/
def floatInRange (x : Word) : Bool := isFinite x && decide ((floatParts x).1 ≤ 2 ^ 31 - 1)

/-- Three decimal digits. -/
def threeDigits (m : Nat) : List Byte :=
  [chZero + BitVec.ofNat 8 (m / 100), chZero + BitVec.ofNat 8 (m / 10 % 10), chZero + BitVec.ofNat 8 (m % 10)]

/-- FmtFloat (R212), for a value within rule R213. -/
def fmtFloat (x : Word) : List Byte :=
  let (ip, m) := floatParts x
  (if floatNeg x then [chMinus] else []) ++ dec ip ++ [chDot] ++ threeDigits m

/-- FmtStr (R214): verbatim. -/
def fmtStr (t : List Byte) : List Byte := t

/-- Item texts joined by single commas (R202). -/
def joinItems : List (List Byte) → List Byte
  | [] => []
  | [t] => t
  | t :: u :: ts => t ++ [chComma] ++ joinItems (u :: ts)

/-- FrameBytes (R202). -/
def frameBytes (path : List Byte) (texts : List (List Byte)) : List Byte :=
  [chLBrace, chP, chColon] ++ path ++ [chColon, chD, chColon] ++ joinItems texts ++ [chRBrace]

end Sys2Proof.Machine
end

