-- ==== Sys2Proof/Machine/Encoder.lean ====
section
/-! DEFINITION. The Frame Encoder's four operations (R206 to R209). Accepting one computes the whole frame (R203); the bytes then go out
by E.EMIT, one step each (R204, Ops.lean). -/

namespace Sys2Proof.Machine

/-- Starts an encoder operation of `n` values, which rule R201 bounds by K (U17; log entry 13). -/
def acceptFrame (s : State) (n : Nat) (path : List Byte) (texts : List (List Byte)) : Host.Outcome State Fault Refusal :=
  if n ≤ s.cfg.maxItems then .next (s.startFrame (frameBytes path texts)) else .refused .tooManyValues

/-- E.NONE (R206) -/
def execENone (path : List Byte) (s : State) : Host.Outcome State Fault Refusal :=
  onIdle s (acceptFrame s 0 path [])

/-- E.INT (R207) -/
def execEInt (path : List Byte) (vals : List Word) (s : State) : Host.Outcome State Fault Refusal :=
  onIdle s (acceptFrame s vals.length path (vals.map fmtInt))

/-- E.FLOAT (R208): refused when a value is outside rule R213 (U7), tested before their number (log entry 13). -/
def execEFloat (path : List Byte) (vals : List Word) (s : State) : Host.Outcome State Fault Refusal :=
  onIdle s (if vals.all floatInRange then acceptFrame s vals.length path (vals.map fmtFloat) else .refused .floatRange)

/-- E.STR (R209) -/
def execEStr (path : List Byte) (strs : List (List Byte)) (s : State) : Host.Outcome State Fault Refusal :=
  onIdle s (acceptFrame s strs.length path (strs.map fmtStr))

end Sys2Proof.Machine
end

