-- ==== Sys2Proof/Machine/Parser.lean ====
section
/-! DEFINITION. The seventeen transitions of the Frame Parser (R141 to R157). The byte has been popped from RXQ already; each meaning is
guarded by the selection of rule R95 (log entry 9). -/

namespace Sys2Proof.Machine

/-- P.OVF (R141): the frame in progress is dropped, and the byte with it, whatever it is. -/
def execPOvf (st : BitVec 3) (c : Byte) (s : State) : Host.Outcome State Fault Refusal :=
  onRow (s.guard && st == s.pstate.code) (.next (s.resetIdx.enterError (.scratchOverflow c)))

/-- P.WS.LBRACE (R142) -/
def execPWsLbrace (s : State) : Host.Outcome State Fault Refusal :=
  onRow (s.inRow .waitStart true) (.next s.beginFrame)

/-- P.WS.OTHER (R143): the byte is ignored. -/
def execPWsOther (c : Byte) (s : State) : Host.Outcome State Fault Refusal :=
  onRow (s.inRow .waitStart (c != chLBrace)) (.next s)

/-- P.WP.P (R144) -/
def execPWpP (s : State) : Host.Outcome State Fault Refusal :=
  onRow (s.inRow .waitP true) (.next { s with pstate := .waitPColon })

/-- P.WP.OTHER (R145) -/
def execPWpOther (c : Byte) (s : State) : Host.Outcome State Fault Refusal :=
  onRow (s.inRow .waitP (c != chP)) (.next (s.enterError (.malformed .waitP c)))

/-- P.WPC.COLON (R146) -/
def execPWpcColon (s : State) : Host.Outcome State Fault Refusal :=
  onRow (s.inRow .waitPColon true) (.next { s with pathStart := s.w, pstate := .readPath })

/-- P.WPC.OTHER (R147) -/
def execPWpcOther (c : Byte) (s : State) : Host.Outcome State Fault Refusal :=
  onRow (s.inRow .waitPColon (c != chColon)) (.next (s.enterError (.malformed .waitPColon c)))

/-- P.RP.COLON (R148): the sentinel takes one scratch byte and is not counted. -/
def execPRpColon (s : State) : Host.Outcome State Fault Refusal :=
  onRow (s.inRow .readPath true)
    (.next { s.writeScr s.w sentinel with pathLen := s.w - s.pathStart, w := s.w + 1, pstate := .waitD })

/-- P.RP.OTHER (R149) -/
def execPRpOther (c : Byte) (s : State) : Host.Outcome State Fault Refusal :=
  onRow (s.inRow .readPath (c != chColon)) (.next (s.append c))

/-- P.WD.D (R150) -/
def execPWdD (s : State) : Host.Outcome State Fault Refusal :=
  onRow (s.inRow .waitD true) (.next { s with pstate := .waitDColon })

/-- P.WD.OTHER (R151): the indices are not reset. -/
def execPWdOther (c : Byte) (s : State) : Host.Outcome State Fault Refusal :=
  onRow (s.inRow .waitD (c != chD)) (.next (s.enterError (.malformed .waitD c)))

/-- P.WDC.COLON (R152) -/
def execPWdcColon (s : State) : Host.Outcome State Fault Refusal :=
  onRow (s.inRow .waitDColon true) (.next { s with dataStart := s.w, pstate := .readData })

/-- P.WDC.OTHER (R153): the indices are not reset. -/
def execPWdcOther (c : Byte) (s : State) : Host.Outcome State Fault Refusal :=
  onRow (s.inRow .waitDColon (c != chColon)) (.next (s.enterError (.malformed .waitDColon c)))

/-- The state of P.RD.RBRACE before its push: the data is terminated and its length recorded (R154). -/
def State.endData (s : State) : State :=
  { s.writeScr s.w sentinel with dataLen := s.w - s.dataStart, w := s.w + 1 }

/-- The Frame View over the scratch buffer (R36, R154): copies of the bookkeeping registers. -/
def State.frameView (s : State) : View := ⟨s.pathStart, s.pathLen, s.dataStart, s.dataLen, s.scrGen⟩

/-- P.RD.RBRACE (R154): the completed frame is queued, or dropped when FQ is full. -/
def execPRdRbrace (s : State) : Host.Outcome State Fault Refusal :=
  onRow (s.inRow .readData true)
    (match s.endData.pushFq s.endData.frameView with
     | .error f => .fault f
     | .ok (s1, true) => .next { s1.resetIdx with pstate := .waitStart }
     | .ok (s1, false) => .next (s1.resetIdx.enterError .frameqFull))

/-- P.RD.OTHER (R155) -/
def execPRdOther (c : Byte) (s : State) : Host.Outcome State Fault Refusal :=
  onRow (s.inRow .readData (c != chRBrace)) (.next (s.append c))

/-- P.ER.LBRACE (R156): the only way out of Error but RESET (R255). -/
def execPErLbrace (s : State) : Host.Outcome State Fault Refusal :=
  onRow (s.inRow .error true) (.next s.beginFrame)

/-- P.ER.OTHER (R157): the byte is ignored. -/
def execPErOther (c : Byte) (s : State) : Host.Outcome State Fault Refusal :=
  onRow (s.inRow .error (c != chLBrace)) (.next s)

end Sys2Proof.Machine
end

