-- ==== Sys2Proof/Machine/Queues.lean ====
section
/-! DEFINITION. The queue ports: the generic Q.PUSH and Q.POP (R108, R122, R124), and the transport's RX.PUSH and TX.POP (R131, R132). -/

namespace Sys2Proof.Machine

/-- Q.PUSH (R122) driven by `who`: only the queue's producer may (R133); anyone else is FAULT_ROLE (R281). -/
def execQPush (who : Role) (item : QItem) (s : State) : Host.Outcome State Fault Refusal :=
  if who = producerOf (itemQueue item) then
    match item with
    | .rxByte b => pushResult .rxq (s.pushRx b)
    | .view v => pushResult .fq (s.pushFq v)
    | .txByte b => pushResult .txq (s.pushTx b)
  else .fault .role

/-- Q.POP (R124) driven by `who`: only the queue's consumer may (R133); anyone else is FAULT_ROLE (R281). -/
def execQPop (who : Role) (q : QId) (s : State) : Host.Outcome State Fault Refusal :=
  if who = consumerOf q then
    match q with
    | .rxq => popByteResult .rxq s.popRx
    | .fq => popViewResult s.popFq
    | .txq => popByteResult .txq s.popTx
  else .fault .role

/-- RX.PUSH (R131): Q.PUSH on RXQ by the transport's receive side. -/
def execRxPush (b : Byte) (s : State) : Host.Outcome State Fault Refusal := pushResult .rxq (s.pushRx b)

/-- TX.POP (R132): Q.POP on TXQ by the transport's transmit side. -/
def execTxPop (s : State) : Host.Outcome State Fault Refusal := popByteResult .txq s.popTx

end Sys2Proof.Machine
end

