-- ==== Sys2Proof/Machine/Reset.lean ====
section
/-! DEFINITION. RESET (R270, R271). -/

namespace Sys2Proof.Machine

/-- Every piece of the spec's state at its reset value (R50, R270). The configuration stays (R273); the record of the run and the turns to
come are no state of the engine and stay (log entry 17). -/
def State.resetState (s : State) : State :=
  { State.resetWith s.cfg with draws := s.draws, sched := s.sched, events := s.events, outs := s.outs }

/-- RESET (R270): only with nothing in flight, else FAULT_RESET_BUSY (R271). -/
def execRst (s : State) : Host.Outcome State Fault Refusal :=
  if s.busy then .fault .resetBusy else .next s.resetState

end Sys2Proof.Machine
end

