-- ==== Sys2Proof/Machine/Dispatch.lean ====
section
/-! DEFINITION. The meaning of each row of spec/opcode_table.json, one arm per constructor of Instr. -/

namespace Sys2Proof.Machine

def exec (i : Instr) (s : State) : Host.Outcome State Fault Refusal :=
  match i with
  | .pOvf st c => Sys2Proof.Machine.execPOvf st c s
  | .pWsLbrace => Sys2Proof.Machine.execPWsLbrace s
  | .pWsOther c => Sys2Proof.Machine.execPWsOther c s
  | .pWpP => Sys2Proof.Machine.execPWpP s
  | .pWpOther c => Sys2Proof.Machine.execPWpOther c s
  | .pWpcColon => Sys2Proof.Machine.execPWpcColon s
  | .pWpcOther c => Sys2Proof.Machine.execPWpcOther c s
  | .pRpColon => Sys2Proof.Machine.execPRpColon s
  | .pRpOther c => Sys2Proof.Machine.execPRpOther c s
  | .pWdD => Sys2Proof.Machine.execPWdD s
  | .pWdOther c => Sys2Proof.Machine.execPWdOther c s
  | .pWdcColon => Sys2Proof.Machine.execPWdcColon s
  | .pWdcOther c => Sys2Proof.Machine.execPWdcOther c s
  | .pRdRbrace => Sys2Proof.Machine.execPRdRbrace s
  | .pRdOther c => Sys2Proof.Machine.execPRdOther c s
  | .pErLbrace => Sys2Proof.Machine.execPErLbrace s
  | .pErOther c => Sys2Proof.Machine.execPErOther c s
  | .clsDigit07 d => Sys2Proof.Machine.execClsDigit07 d s
  | .clsDigit89 d => Sys2Proof.Machine.execClsDigit89 d s
  | .clsMinus => Sys2Proof.Machine.execClsMinus s
  | .clsComma => Sys2Proof.Machine.execClsComma s
  | .clsDot => Sys2Proof.Machine.execClsDot s
  | .clsOther b => Sys2Proof.Machine.execClsOther b s
  | .pPoll => Sys2Proof.Machine.execPPoll s
  | .dPoll => Sys2Proof.Machine.execDPoll s
  | .nSet cb => Sys2Proof.Machine.execNSet cb s
  | .eNone path => Sys2Proof.Machine.execENone path s
  | .eInt path vals => Sys2Proof.Machine.execEInt path vals s
  | .eFloat path vals => Sys2Proof.Machine.execEFloat path vals s
  | .eStr path strs => Sys2Proof.Machine.execEStr path strs s
  | .cmdReserved0 => Sys2Proof.Machine.execCmdReserved0 s
  | .cmdReserved8F low => Sys2Proof.Machine.execCmdReserved8F low s
  | .qPush who item => Sys2Proof.Machine.execQPush who item s
  | .qPop who q => Sys2Proof.Machine.execQPop who q s
  | .rxPush b => Sys2Proof.Machine.execRxPush b s
  | .txPop => Sys2Proof.Machine.execTxPop s
  | .rst => Sys2Proof.Machine.execRst s

end Sys2Proof.Machine
end

