-- ==== Sys2Proof/Machine/Fetch.lean ====
section
/-! DEFINITION. What the next turn brings: an instruction to run, or an answer at once (a step no row selects). A turn takes effect between
two steps; the schedule is the model's own (log entry 2). -/

namespace Sys2Proof.Machine

/-- What a turn brings. -/
inductive Fetched where
  /-- the decoder read an instruction: run it in this state -/
  | run (i : Instr) (s : State)
  /-- the turn is answered without an instruction -/
  | answer (o : Host.Outcome State Fault Refusal)
deriving Repr

/-- A turn from outside may drive only a port the environment has: the generic queue ports of the parser, the dispatcher and the encoder
are internal (R108, R133), so a claim to be one of them is a second producer or consumer (R281). -/
def PortSig.external : PortSig → Bool
  | .dbyte _ => true
  | .cmd _ => true
  | .qProducer _ who _ => who != .parser && who != .dispatcher && who != .encoder
  | .qConsumer _ who _ => who != .parser && who != .dispatcher && who != .encoder
  | .rx _ _ => true
  | .tx _ => true
  | .rst _ => true

/-- A transaction at a port. Idle signals are no transaction and nothing happens (R102, R103, R107, R108). -/
def fetchPort (p : PortSig) (s : State) : Fetched :=
  match decode (.port p) with
  | .ok i => if PortSig.external p then .run i s else .answer (.fault .role)
  | .error .noRequest => .answer (.next s)
  | .error .noRow => .answer (.refused .badSignals)
  | .error .countMismatch => .answer (.refused .badSignals)
  | .error .tooLong => .answer (.refused .badSignals)

/-- The end of a P.POLL: the pop that found RXQ empty (R160). -/
def State.endPoll (s : State) : State := ({ s with pollActive := false } : State).done true

/-- One iteration of a running P.POLL (R160): the pop, and the transition the popped byte selects; the failed pop ends the operation. -/
def fetchByte (s : State) : Fetched :=
  match s.popRx with
  | .error f => .answer (.fault f)
  | .ok (s1, none) => .answer (.next s1.endPoll)
  | .ok (s1, some c) =>
    match decode (s1.byteSignal c) with
    | .ok i => .run i s1
    | .error _ => .answer (.refused .rowNotSelected)

/-- The next step of the running task operation: an iteration of P.POLL, or one E.EMIT; nothing when none runs (R46, R47). -/
def fetchTask (s : State) : Fetched :=
  if s.pollActive then fetchByte s else .answer s.emit

/-- What the next turn brings; with no turn left no agent steps. -/
def fetch (s : State) : Fetched :=
  match s.sched with
  | [] => .answer (.next s)
  | t :: rest =>
    let s0 : State := { s with sched := rest }
    match t with
    | .port p => fetchPort p s0
    | .task => fetchTask s0
    | .syncP q => .answer (.next (s0.syncP q))
    | .syncC q => .answer (.next (s0.syncC q))

/-- The state whose next turn is one transaction at a port. -/
def State.placePort (s : State) (p : PortSig) : State := { s with sched := [.port p] }

/-- The state whose next turn is one iteration of P.POLL over the byte `c` in the parser state `st`: RXQ holds that byte alone. -/
def State.placeByte (s : State) (st : PState) (c : Byte) : State :=
  let next := advance s.cfg.rx s.rx.cons
  { s with
    sched := [.task]
    pollActive := true
    pstate := st
    rx := { store := s.rx.store.write s.rx.cons c, prod := next, cons := s.rx.cons, prodSeen := next, consSeen := s.rx.cons } }

/-- The state whose next step runs the instruction of a signal. -/
def State.placeSignal (s : State) : Signal → State
  | .port p => s.placePort p
  | .pbyte _ key => s.placeByte (PState.ofCode (keyState key)) (keyByte key)

/-- A table word placed where the next step fetches it; the state itself where the word is no signal. -/
def State.placeTableWord (s : State) (nbits w : Nat) : State :=
  match signalOfTableWord nbits w with
  | some sig => s.placeSignal sig
  | none => s

end Sys2Proof.Machine
end

