-- ==== Sys2Proof/Safety.lean ====
section
/-! DEFINITION. The terms claims use: the live elements of a queue, the invariants of R128 and R159, what a written scratch region is,
and runs of the parser over a list of bytes. -/

namespace Sys2Proof.Machine

variable {α : Type}

/-- `d(a, b) = (b - a) mod C` for indices below `C` (R128). -/
def dist (g : Geometry) (a b : Nat) : Nat := (b + g.cap - a) % g.cap

/-- The slot `i` places after the consumer index. -/
def Queue.slot (g : Geometry) (q : Queue α) (i : Nat) : Nat := (q.cons + i) % g.cap

/-- How many elements are live (R23). -/
def Queue.count (g : Geometry) (q : Queue α) : Nat := dist g q.cons q.prod

/-- How many live elements the consumer side can see (R72). -/
def Queue.visible (g : Geometry) (q : Queue α) : Nat := dist g q.cons (q.prodView g)

/-- How many pushes the producer side has room for (R72): slots it sees free, less the one kept empty (R23). -/
def Queue.room (g : Geometry) (q : Queue α) : Nat := g.cap - 1 - dist g (q.consView g) q.prod

/-- The live elements, oldest first (R23). -/
def Queue.live (g : Geometry) (q : Queue α) : List α :=
  (List.range (q.count g)).filterMap (fun i => q.store.read (q.slot g i))

/-- The indices are in range (R128 a). -/
abbrev Queue.inRange (g : Geometry) (q : Queue α) : Prop :=
  q.prod < g.cap ∧ q.cons < g.cap ∧ q.prodSeen < g.cap ∧ q.consSeen < g.cap

/-- The order of the indices going round the queue (R71, R128 b). -/
abbrev Queue.ordered (g : Geometry) (q : Queue α) : Prop :=
  dist g (q.consView g) q.cons + dist g q.cons (q.prodView g) + dist g (q.prodView g) q.prod ≤ g.cap - 1

/-- Every live slot has been written (R128 d). -/
abbrev Queue.written (g : Geometry) (q : Queue α) : Prop :=
  ∀ i < q.count g, (q.store.read (q.slot g i)).isSome = true

/-- The invariant of one queue (R128), with its storage canonical and inside its capacity. -/
abbrev Queue.inv (g : Geometry) (q : Queue α) : Prop :=
  q.inRange g ∧ q.ordered g ∧ q.written g ∧ Memory.wf q.store ∧ Memory.within g.cap q.store

/-- Every scratch byte below `n` has been written. -/
abbrev State.scrWritten (s : State) (n : Nat) : Prop := ∀ a < n, (s.scr.read a).isSome = true

/-- The layout of a Frame View (R61, R159): `{0, P, P+1, L}` inside the buffer, over written bytes, of a generation not ahead of the
parser's. -/
abbrev State.viewOk (s : State) (v : View) : Prop :=
  v.pathOff = 0 ∧ v.dataOff = v.pathLen + 1 ∧ v.pathLen + v.dataLen + 2 ≤ s.cfg.size ∧
    v.gen ≤ s.scrGen ∧ s.scrWritten (v.pathLen + v.dataLen + 2)

/-- The parser's layout in each of its states (R159), with the bytes of the frame in progress written. -/
abbrev State.layout (s : State) : Prop :=
  match s.pstate with
  | .waitStart => s.w = 0
  | .waitP => s.w = 0
  | .waitPColon => s.w = 0
  | .readPath => s.pathStart = 0 ∧ s.w ≤ s.cfg.size ∧ s.scrWritten s.w
  | .waitD => s.pathStart = 0 ∧ s.w = s.pathLen + 1 ∧ s.w ≤ s.cfg.size ∧ s.scr.read s.pathLen = some sentinel ∧
      s.scrWritten s.w
  | .waitDColon => s.pathStart = 0 ∧ s.w = s.pathLen + 1 ∧ s.w ≤ s.cfg.size ∧ s.scr.read s.pathLen = some sentinel ∧
      s.scrWritten s.w
  | .readData => s.pathStart = 0 ∧ s.dataStart = s.pathLen + 1 ∧ s.dataStart ≤ s.w ∧ s.w ≤ s.cfg.size ∧
      s.scr.read s.pathLen = some sentinel ∧ s.scrWritten s.w
  | .error => s.w < s.cfg.size

/-- At most one task operation is in flight (R263), and no byte count is kept without one. -/
abbrev State.oneTask (s : State) : Prop :=
  (s.pollActive = true → s.encRem = []) ∧ (s.encRem = [] → s.encSent = 0)

/-- The invariant of the engine: every queue's (R128), every live view's, the parser's layout (R159), the scratch buffer canonical and
inside its size, and the serialised task context (R263). -/
structure State.Inv (s : State) : Prop where
  rx : s.rx.inv s.cfg.rx
  fq : s.fq.inv s.cfg.fq
  tx : s.tx.inv s.cfg.tx
  views : ∀ v ∈ s.fq.live s.cfg.fq, s.viewOk v
  layout : s.layout
  scrWf : Memory.wf s.scr
  scrWithin : Memory.within s.cfg.size s.scr
  task : s.oneTask

/-- No task operation is in flight: the command port accepts a command (R104). -/
abbrev State.idle (s : State) : Prop := s.pollActive = false ∧ s.encRem = []

/-- The `P.STEP` of one byte (R140): the row that R95 selects, run. -/
def State.parseByte (s : State) (c : Byte) : Host.Outcome State Fault Refusal :=
  match decode (s.byteSignal c) with
  | .ok i => exec i s
  | .error _ => .refused .rowNotSelected

/-- The `P.STEP`s of a list of bytes, in order. -/
def State.parseBytes (s : State) : List Byte → Host.Outcome State Fault Refusal
  | [] => .next s
  | c :: cs =>
    match s.parseByte c with
    | .next t => State.parseBytes t cs
    | .fault f => .fault f
    | .refused r => .refused r

/-- The class rows run over a list of data bytes, in order (R96). -/
def State.classBytes (s : State) : List Byte → Host.Outcome State Fault Refusal
  | [] => .next s
  | b :: bs =>
    match decode (.port (.dbyte b)) with
    | .error _ => .refused .badSignals
    | .ok i =>
      match exec i s with
      | .next t => State.classBytes t bs
      | .fault f => .fault f
      | .refused r => .refused r

/-- The queue after a push that found room (R122). -/
def Queue.pushed (g : Geometry) (q : Queue α) (x : α) : Queue α :=
  { q with store := Memory.write q.store q.prod x, prod := (q.prod + 1) % g.cap }

/-- The queue after a pop that found an element (R124). -/
def Queue.popped (g : Geometry) (q : Queue α) : Queue α := { q with cons := (q.cons + 1) % g.cap }

/-- One operation on a queue: of its producer, of its consumer, or of a synchroniser. -/
inductive QOp (α : Type) where
  | push (x : α)
  | pop
  | syncP
  | syncC
deriving DecidableEq, Repr

/-- A queue with the items of its successful pushes and of its successful pops so far (R129). -/
structure QRun (α : Type) where
  queue  : Queue α
  pushed : List α
  popped : List α
deriving DecidableEq, Repr

/-- The run before any operation: the queue as after reset. -/
def QRun.start (α : Type) : QRun α := ⟨Queue.empty α, [], []⟩

/-- One operation of a run; an operation that fails changes nothing. -/
def QRun.op (g : Geometry) (r : QRun α) : QOp α → QRun α
  | .push x =>
    match r.queue.push g x with
    | .ok (some q) => { r with queue := q, pushed := r.pushed ++ [x] }
    | .ok none => r
    | .error _ => r
  | .pop =>
    match r.queue.pop g with
    | .ok (some (x, q)) => { r with queue := q, popped := r.popped ++ [x] }
    | .ok none => r
    | .error _ => r
  | .syncP => { r with queue := r.queue.syncP g }
  | .syncC => { r with queue := r.queue.syncC g }

/-- A run of operations in any order. -/
def QRun.ops (g : Geometry) (r : QRun α) (l : List (QOp α)) : QRun α := l.foldl (QRun.op g) r

/-- The items a list of operations tries to push. -/
def pushesOf : List (QOp α) → List α
  | [] => []
  | .push x :: l => x :: pushesOf l
  | .pop :: l => pushesOf l
  | .syncP :: l => pushesOf l
  | .syncC :: l => pushesOf l

/-- The draw count after the fields `fs` have been parsed in order by `p`, from `k` draws before them (R181, R183, R185). -/
def drawsAfter (p : Nat → List Byte → Word × Nat) (k : Nat) (fs : List (List Byte)) : Nat := fs.foldl (fun n f => (p n f).2) k

/-- The notifications of `n` bytes enqueued with the slot at `cb` (R222). -/
def notices (cb : Option Nat) (n : Nat) : List Out :=
  match cb with
  | some id => List.replicate n (.notify id)
  | none => []

/-- A handler invocation. -/
def Out.isCall : Out → Bool
  | .call _ => true
  | .pushOk _ _ => false
  | .popByte _ _ => false
  | .popView _ => false
  | .cmdDone _ => false
  | .notify _ => false

/-- A transmit notification. -/
def Out.isNotify : Out → Bool
  | .notify _ => true
  | .call _ => false
  | .pushOk _ _ => false
  | .popByte _ _ => false
  | .popView _ => false
  | .cmdDone _ => false

/-- A turn of the transport or of a synchroniser: no task-context operation, no reset (R262). -/
def Turn.outsideTask : Turn → Bool
  | .port (.rx _ _) => true
  | .port (.tx _) => true
  | .port (.qProducer _ _ _) => true
  | .port (.qConsumer _ _ _) => true
  | .port (.dbyte _) => false
  | .port (.cmd _) => false
  | .port (.rst _) => false
  | .task => false
  | .syncP _ => true
  | .syncC _ => true

/-- The rows of the parser's table (R95). -/
def isParserRow : Instr → Bool
  | .pOvf _ _ | .pWsLbrace | .pWsOther _ | .pWpP | .pWpOther _ | .pWpcColon | .pWpcOther _ | .pRpColon | .pRpOther _
  | .pWdD | .pWdOther _ | .pWdcColon | .pWdcOther _ | .pRdRbrace | .pRdOther _ | .pErLbrace | .pErOther _ => true
  | .clsDigit07 _ | .clsDigit89 _ | .clsMinus | .clsComma | .clsDot | .clsOther _ => false
  | .pPoll | .dPoll | .nSet _ | .eNone _ | .eInt _ _ | .eFloat _ _ | .eStr _ _ | .cmdReserved0 | .cmdReserved8F _ => false
  | .qPush _ _ | .qPop _ _ | .rxPush _ | .txPop | .rst => false

end Sys2Proof.Machine
end

