-- ==== Sys2Proof/Certificates/Slice0/Obligations.lean ====
section
/-! DEFINITION. The statements for the provers. -/

open Sys2Proof Sys2Proof.Machine

/-! ## Encoding -/

/-- Decoding the encoding of any well-formed instruction gives it back, with every operand (R95, R96, R105, R108). -/
def Obligations.DecodeInvertsEncode : Prop :=
  ∀ i : Instr, i.wf = true → decode (encode i) = .ok i

/-- Whatever the decoder accepts is well formed: the OTHER rows never take a byte of an earlier row, and operands fit the port. -/
def Obligations.DecodeYieldsWellFormed : Prop :=
  ∀ (sig : Signal) (i : Instr), decode sig = .ok i → i.wf = true

/-- R95: for every state code and byte one row is selected: P.OVF when `w >= S`, else the row of the state and the byte. -/
def Obligations.ParserKeySelectsOneRow : Prop :=
  ∀ (st : PState) (c : Byte),
    decode (.pbyte true (parserKey st.code c)) = .ok (.pOvf st.code c) ∧
    decode (.pbyte false (parserKey st.code c)) =
      .ok (match st with
        | .waitStart => if c = 0x7B then .pWsLbrace else .pWsOther c
        | .waitP => if c = 0x70 then .pWpP else .pWpOther c
        | .waitPColon => if c = 0x3A then .pWpcColon else .pWpcOther c
        | .readPath => if c = 0x3A then .pRpColon else .pRpOther c
        | .waitD => if c = 0x64 then .pWdD else .pWdOther c
        | .waitDColon => if c = 0x3A then .pWdcColon else .pWdcOther c
        | .readData => if c = 0x7D then .pRdRbrace else .pRdOther c
        | .error => if c = 0x7B then .pErLbrace else .pErOther c)

/-- R96 and R175: the class of every byte, and the type of every payload by the classes of its bytes; never None. -/
def Obligations.PayloadClassification : Prop :=
  (∀ b : Byte, byteClass b =
    if 0x30 ≤ b.toNat ∧ b.toNat ≤ 0x39 then .digit else if b = 0x2D then .minus else if b = 0x2C then .comma
    else if b = 0x2E then .dot else .other) ∧
  ∀ data : List Byte,
    classify data ≠ .none ∧
    classify data = if ∃ b ∈ data, byteClass b = .other then .string
      else if ∃ b ∈ data, byteClass b = .dot then .float else .int

/-- Words written out from the tables of R95, R96, R105, R102, R103, R107 and R108 decode to their instructions. That `decodeTableWord`
reads a bare number in one of the overlapping decode spaces (0x02 as D.POLL and not Q.POP, 0x0F as a command and not a data byte) is the
model's choice (log entry 15); the last four clauses decode port signals and rest on the tables alone. -/
def Obligations.WrittenOutWordsDecode : Prop :=
  decodeTableWord 16 0x07B = some .pWsLbrace ∧
  decodeTableWord 16 0x67D = some .pRdRbrace ∧
  decodeTableWord 16 0x361 = some (.pRpOther 0x61) ∧
  decodeTableWord 8 0x2C = some .clsComma ∧
  decodeTableWord 8 0x37 = some (.clsDigit07 7) ∧
  decodeTableWord 8 0x39 = some (.clsDigit89 1) ∧
  decodeTableWord 8 0x02 = some .dPoll ∧
  decodeTableWord 8 0x0F = some (.cmdReserved8F 7) ∧
  decode (.port (.rx 1 0x7B)) = .ok (.rxPush 0x7B) ∧
  decode (.port (.tx 1)) = .ok .txPop ∧
  decode (.port (.rst 1)) = .ok .rst ∧
  decode (.port (.qConsumer 0x3 .transmitter .txq)) = .ok (.qPop .transmitter .txq)

/-- R105 and R101: what each code of the command port decodes to, with its operands, when they fit the port and `cmd_count` names them. -/
def Obligations.CommandCodesDecode : Prop :=
  ∀ c : CmdSig,
    decode (.port (.cmd { c with op := 0x1 })) = .ok .pPoll ∧
    decode (.port (.cmd { c with op := 0x2 })) = .ok .dPoll ∧
    decode (.port (.cmd { c with op := 0x3 })) = .ok (.nSet c.cb) ∧
    decode (.port (.cmd { c with op := 0x0 })) = .ok .cmdReserved0 ∧
    (∀ low : BitVec 3, decode (.port (.cmd { c with op := 1#1 ++ low })) = .ok (.cmdReserved8F low)) ∧
    (c.path.length < 2 ^ 16 →
      decode (.port (.cmd { c with op := 0x4 })) = .ok (.eNone c.path) ∧
      (c.count < 2 ^ 16 → c.count = c.words.length →
        decode (.port (.cmd { c with op := 0x5 })) = .ok (.eInt c.path c.words) ∧
        decode (.port (.cmd { c with op := 0x6 })) = .ok (.eFloat c.path c.words)) ∧
      (c.count < 2 ^ 16 → c.count = c.strs.length → (∀ t ∈ c.strs, t.length < 2 ^ 16) →
        decode (.port (.cmd { c with op := 0x7 })) = .ok (.eStr c.path c.strs)))

/-! ## Steps -/

/-- A step runs the decoded instruction: for a transaction at an outside port, in the state with the turn taken; for an iteration of P.POLL,
in the state with the turn taken and the byte popped from RXQ. -/
def Obligations.StepRunsDecodedInstruction : Prop :=
  (∀ (s : State) (p : PortSig) (rest : List Turn) (i : Instr),
    s.sched = .port p :: rest → PortSig.external p = true → decode (.port p) = .ok i →
    step s = exec i { s with sched := rest }) ∧
  (∀ (s : State) (rest : List Turn) (c : Byte) (q : Queue Byte) (i : Instr),
    s.sched = .task :: rest → s.pollActive = true → s.rx.pop s.cfg.rx = .ok (some (c, q)) →
    decode (s.byteSignal c) = .ok i →
    step s = exec i { s with sched := rest, rx := q })

/-- R126 and R127: a synchroniser's turn moves its copy one increment toward the true index, modulo the capacity, when the queue is
Synchronised and the copy lags. That the turn of a synchroniser that is not enabled, FQ's among them, is used up with nothing else happening is the model's
choice (log entry 16). -/
def Obligations.SynchroniserSteps : Prop :=
  ∀ (s : State) (rest : List Turn),
    (s.sched = .syncP .rxq :: rest → step s = .next { s with sched := rest, rx :=
      (if s.cfg.rxSync = .synchronised ∧ s.rx.prodSeen ≠ s.rx.prod then
        { s.rx with prodSeen := (s.rx.prodSeen + 1) % s.cfg.cRx } else s.rx) }) ∧
    (s.sched = .syncC .rxq :: rest → step s = .next { s with sched := rest, rx :=
      (if s.cfg.rxSync = .synchronised ∧ s.rx.consSeen ≠ s.rx.cons then
        { s.rx with consSeen := (s.rx.consSeen + 1) % s.cfg.cRx } else s.rx) }) ∧
    (s.sched = .syncP .txq :: rest → step s = .next { s with sched := rest, tx :=
      (if s.cfg.txSync = .synchronised ∧ s.tx.prodSeen ≠ s.tx.prod then
        { s.tx with prodSeen := (s.tx.prodSeen + 1) % s.cfg.cTx } else s.tx) }) ∧
    (s.sched = .syncC .txq :: rest → step s = .next { s with sched := rest, tx :=
      (if s.cfg.txSync = .synchronised ∧ s.tx.consSeen ≠ s.tx.cons then
        { s.tx with consSeen := (s.tx.consSeen + 1) % s.cfg.cTx } else s.tx) }) ∧
    (s.sched = .syncP .fq :: rest → step s = .next { s with sched := rest }) ∧
    (s.sched = .syncC .fq :: rest → step s = .next { s with sched := rest })

/-- The model's choice (log entries 2, 16, 24): with no turn left, with idle port signals, or with no task operation running, a step
changes nothing but the schedule; signals no port can carry are refused. -/
def Obligations.IdleTurns : Prop :=
  ∀ (s : State) (rest : List Turn) (p : PortSig),
    (s.sched = [] → step s = .next s) ∧
    (s.sched = .port p :: rest → decode (.port p) = .error .noRequest → step s = .next { s with sched := rest }) ∧
    (s.sched = .port p :: rest → decode (.port p) = .error .countMismatch → step s = .refused .badSignals) ∧
    (s.sched = .port p :: rest → decode (.port p) = .error .tooLong → step s = .refused .badSignals) ∧
    (s.sched = .task :: rest → s.pollActive = false → s.encRem = [] → step s = .next { s with sched := rest })

/-! ## Queues -/

/-- R122 on each queue, and RX.PUSH (R131): a push by the queue's producer stores the item at the producer slot and advances the producer
index modulo the capacity, or, when the producer side sees the queue full, changes nothing and raises EV_PUSH_FULL; the result is
shown; no other slot and no other state changes. -/
def Obligations.QPushCompletes : Prop :=
  ∀ s : State,
    (∀ b : Byte, s.rx.prod < s.cfg.cRx →
      let t : State := if (s.rx.prod + 1) % s.cfg.cRx = s.rx.consView s.cfg.rx
        then { s with events := s.events ++ [.pushFull .rxq], outs := s.outs ++ [.pushOk .rxq false] }
        else { s with rx := s.rx.pushed s.cfg.rx b, outs := s.outs ++ [.pushOk .rxq true] }
      exec (.qPush .receiver (.rxByte b)) s = .next t ∧ exec (.rxPush b) s = .next t) ∧
    (∀ v : View, s.fq.prod < s.cfg.cFq →
      exec (.qPush .parser (.view v)) s = .next (if (s.fq.prod + 1) % s.cfg.cFq = s.fq.cons
        then { s with events := s.events ++ [.pushFull .fq], outs := s.outs ++ [.pushOk .fq false] }
        else { s with fq := s.fq.pushed s.cfg.fq v, outs := s.outs ++ [.pushOk .fq true] })) ∧
    (∀ b : Byte, s.tx.prod < s.cfg.cTx →
      exec (.qPush .encoder (.txByte b)) s = .next (if (s.tx.prod + 1) % s.cfg.cTx = s.tx.consView s.cfg.tx
        then { s with events := s.events ++ [.pushFull .txq], outs := s.outs ++ [.pushOk .txq false] }
        else { s with tx := s.tx.pushed s.cfg.tx b, outs := s.outs ++ [.pushOk .txq true] })) ∧
    (∀ (g : Geometry) (b : Byte) (a : Nat), Memory.read (s.rx.pushed g b).store a =
      if a = s.rx.prod then some b else Memory.read s.rx.store a) ∧
    (∀ (g : Geometry) (v : View) (a : Nat), Memory.read (s.fq.pushed g v).store a =
      if a = s.fq.prod then some v else Memory.read s.fq.store a) ∧
    (∀ (g : Geometry) (b : Byte) (a : Nat), Memory.read (s.tx.pushed g b).store a =
      if a = s.tx.prod then some b else Memory.read s.tx.store a)

/-- R124 on each queue, and TX.POP (R132): a pop by the queue's consumer returns the element at the consumer slot and advances the
consumer index modulo the capacity, the slot not cleared, or, when the consumer side sees the queue empty, changes nothing, returns
no item and raises EV_POP_EMPTY. -/
def Obligations.QPopCompletes : Prop :=
  ∀ s : State,
    (s.rx.prodView s.cfg.rx = s.rx.cons → exec (.qPop .parser .rxq) s = .next
      { s with events := s.events ++ [.popEmpty .rxq], outs := s.outs ++ [.popByte .rxq none] }) ∧
    (∀ b : Byte, s.rx.prodView s.cfg.rx ≠ s.rx.cons → s.rx.cons < s.cfg.cRx → Memory.read s.rx.store s.rx.cons = some b →
      exec (.qPop .parser .rxq) s = .next { s with rx := s.rx.popped s.cfg.rx, outs := s.outs ++ [.popByte .rxq (some b)] }) ∧
    (s.fq.prod = s.fq.cons → exec (.qPop .dispatcher .fq) s = .next
      { s with events := s.events ++ [.popEmpty .fq], outs := s.outs ++ [.popView none] }) ∧
    (∀ v : View, s.fq.prod ≠ s.fq.cons → s.fq.cons < s.cfg.cFq → Memory.read s.fq.store s.fq.cons = some v →
      exec (.qPop .dispatcher .fq) s = .next { s with fq := s.fq.popped s.cfg.fq, outs := s.outs ++ [.popView (some v)] }) ∧
    (s.tx.prodView s.cfg.tx = s.tx.cons →
      let t : State := { s with events := s.events ++ [.popEmpty .txq], outs := s.outs ++ [.popByte .txq none] }
      exec (.qPop .transmitter .txq) s = .next t ∧ exec .txPop s = .next t) ∧
    (∀ b : Byte, s.tx.prodView s.cfg.tx ≠ s.tx.cons → s.tx.cons < s.cfg.cTx → Memory.read s.tx.store s.tx.cons = some b →
      let t : State := { s with tx := s.tx.popped s.cfg.tx, outs := s.outs ++ [.popByte .txq (some b)] }
      exec (.qPop .transmitter .txq) s = .next t ∧ exec .txPop s = .next t)

/-- R76, R264: a turn of the transport or of a synchroniser that goes on leaves everything of the task context alone: the scratch buffer,
FQ, RXQ's consumer index, TXQ's producer index and storage, the parser's registers, the notifier slot and the running operations. -/
def Obligations.ContextSeparation : Prop :=
  ∀ (s t : State) (turn : Turn) (rest : List Turn),
    s.sched = turn :: rest → turn.outsideTask = true → step s = .next t →
    t.scr = s.scr ∧ t.fq = s.fq ∧ t.rx.cons = s.rx.cons ∧ t.tx.prod = s.tx.prod ∧ t.tx.store = s.tx.store ∧
    t.pstate = s.pstate ∧ t.w = s.w ∧ t.pathStart = s.pathStart ∧ t.pathLen = s.pathLen ∧
    t.dataStart = s.dataStart ∧ t.dataLen = s.dataLen ∧ t.ncb = s.ncb ∧ t.pollActive = s.pollActive ∧
    t.encRem = s.encRem ∧ t.encSent = s.encSent ∧ t.scrGen = s.scrGen ∧ t.scan = s.scan ∧ t.draws = s.draws ∧ t.sched = rest

/-- R133 and R281: each side of each queue has one role; anyone else who drives it is FAULT_ROLE, and so is a turn from outside that
claims an internal unit's side; that last point is the model's inference (log entry 14). -/
def Obligations.ForeignRoleFaults : Prop :=
  (producerOf .rxq = .receiver ∧ consumerOf .rxq = .parser ∧ producerOf .fq = .parser ∧ consumerOf .fq = .dispatcher ∧
    producerOf .txq = .encoder ∧ consumerOf .txq = .transmitter) ∧
  ∀ (s : State) (who : Role),
    (∀ item : QItem, who ≠ producerOf (itemQueue item) → exec (.qPush who item) s = .fault .role) ∧
    (∀ q : QId, who ≠ consumerOf q → exec (.qPop who q) s = .fault .role) ∧
    (∀ (rest : List Turn) (key : BitVec 2) (item : QItem), s.sched = .port (.qProducer key who item) :: rest →
      key &&& 0x1 = 0x1 → (who = .parser ∨ who = .dispatcher ∨ who = .encoder) → step s = .fault .role) ∧
    (∀ (rest : List Turn) (key : BitVec 2) (q : QId), s.sched = .port (.qConsumer key who q) :: rest →
      key &&& 0x2 = 0x2 → (who = .parser ∨ who = .dispatcher ∨ who = .encoder) → step s = .fault .role)

/-- R128: the queue's invariant holds of an empty queue, and every push, pop and synchroniser step keeps it; under it no push and no pop
faults. -/
def Obligations.QueueInvariantKept : Prop :=
  ∀ (α : Type) (g : Geometry), 1 < g.cap →
    Queue.inv g (Queue.empty α) ∧
    ∀ q : Queue α, Queue.inv g q →
      (∀ (x : α) (q' : Queue α), q.push g x = .ok (some q') → Queue.inv g q') ∧
      (∀ (x : α) (q' : Queue α), q.pop g = .ok (some (x, q')) → Queue.inv g q') ∧
      Queue.inv g (q.syncP g) ∧ Queue.inv g (q.syncC g) ∧
      (∀ (x : α) (f : Fault), q.push g x ≠ .error f) ∧ (∀ f : Fault, q.pop g ≠ .error f)

/-- R129: in every run of pushes, pops and synchroniser steps, in any order, from an empty queue of any capacity and visibility, the items
popped are a prefix of the items pushed. -/
def Obligations.FifoOrder : Prop :=
  ∀ (α : Type) (g : Geometry) (l : List (QOp α)), 1 < g.cap →
    (QRun.ops g (QRun.start α) l).popped <+: (QRun.ops g (QRun.start α) l).pushed

/-- R23, R72, R128: under the queue's invariant a push appends to the live elements, a pop takes the oldest, a synchroniser step keeps
them; there are at most C - 1; a side that sees room or an element is right about it. -/
def Obligations.LiveElements : Prop :=
  ∀ (α : Type) (g : Geometry) (q : Queue α), 1 < g.cap → Queue.inv g q →
    (∀ (x : α) (q' : Queue α), q.push g x = .ok (some q') → q'.live g = q.live g ++ [x]) ∧
    (∀ (x : α) (q' : Queue α), q.pop g = .ok (some (x, q')) → q.live g = x :: q'.live g) ∧
    (q.syncP g).live g = q.live g ∧ (q.syncC g).live g = q.live g ∧
    (q.live g).length = q.count g ∧ q.count g ≤ g.cap - 1 ∧
    (q.fullP g = false → q.count g < g.cap - 1) ∧ (q.emptyC g = false → q.live g ≠ [])

/-- R130: from an empty queue whose copies, where it has them, have caught up, the first C - 1 pushes succeed and later ones fail, whatever the synchronisers
do; after one pop the next push succeeds, at once when Immediate, once Q.SYNCC has been taken when Synchronised, where the pop itself
needs Q.SYNCP first. -/
def Obligations.CapacityBound : Prop :=
  ∀ (α : Type) (g : Geometry) (q : Queue α), 1 < g.cap → Queue.inv g q →
    q.prod = q.cons → (g.sync = .synchronised → q.prodSeen = q.cons ∧ q.consSeen = q.cons) →
    (∀ l : List (QOp α), QOp.pop ∉ l → (QRun.ops g ⟨q, [], []⟩ l).pushed = (pushesOf l).take (g.cap - 1)) ∧
    (∀ (x : α) (xs : List α) (y : α), (x :: xs).length = g.cap - 1 →
      let full := QRun.ops g ⟨q, [], []⟩ ((x :: xs).map QOp.push)
      (QRun.ops g full [.push y]).pushed = x :: xs ∧
      (QRun.ops g full [.syncP, .pop, .syncC, .push y]).pushed = x :: xs ++ [y] ∧
      (QRun.ops g full [.syncP, .pop, .syncC, .push y]).popped = [x] ∧
      (g.sync = .immediate → (QRun.ops g full [.pop, .push y]).pushed = x :: xs ++ [y]) ∧
      (g.sync = .synchronised → (QRun.ops g full [.syncP, .pop, .push y]).pushed = x :: xs ∧
        (QRun.ops g full [.pop]).popped = []))

/-- R20, R273, R186, R250: no step changes the configuration; the trace and the outputs only grow; a step makes at most one handler call,
and only in a D.POLL; a notification comes only with an encoder's byte. That the records `events` and `outs` stand in the state and only
grow, through RESET too, is the model's choice (log entries 7 and 17). -/
def Obligations.StepKeepsConfigurationAndRecord : Prop :=
  ∀ s t : State, step s = .next t →
    t.cfg = s.cfg ∧ (∃ es, t.events = s.events ++ es) ∧
    ∃ os, t.outs = s.outs ++ os ∧ (os.filter Out.isCall).length ≤ 1 ∧
      ((∃ o ∈ os, Out.isCall o = true) → ∃ c rest, s.sched = .port (.cmd c) :: rest ∧ c.op = 0x2) ∧
      ((∃ o ∈ os, Out.isNotify o = true) → s.encRem ≠ [] ∧ ∃ rest, s.sched = .task :: rest)

/-- R74: on a Synchronised queue whose copies are current, a push followed at once by Q.SYNCP, and a pop followed at once by Q.SYNCC, do
what they do on an Immediate queue, and leave the copies current. -/
def Obligations.ImmediateIsSpecialCase : Prop :=
  ∀ (α : Type) (cap : Nat) (q : Queue α), 1 < cap → q.prod < cap → q.cons < cap → q.prodSeen = q.prod → q.consSeen = q.cons →
    let gs : Geometry := ⟨cap, .synchronised⟩
    let gi : Geometry := ⟨cap, .immediate⟩
    (∀ x : α, q.push gs x = .ok none ↔ q.push gi x = .ok none) ∧
    (q.pop gs = .ok none ↔ q.pop gi = .ok none) ∧
    (∀ (x : α) (q' : Queue α), q.push gs x = .ok (some q') →
      ∃ p, q.push gi x = .ok (some p) ∧ q'.syncP gs = { p with prodSeen := p.prod, consSeen := p.cons }) ∧
    (∀ (x : α) (q' : Queue α), q.pop gs = .ok (some (x, q')) →
      ∃ p, q.pop gi = .ok (some (x, p)) ∧ q'.syncC gs = { p with prodSeen := p.prod, consSeen := p.cons })

/-! ## The parser's rows -/

/-- R141: in every state of the parser, with the write index at the buffer's size, any byte is dropped with the frame in progress. Under
the invariant the guard fires in four of the states only (R162). -/
def Obligations.OverflowGuardDropsByte : Prop :=
  ∀ (s : State) (c : Byte), s.cfg.size ≤ s.w →
    (s.Inv → s.pstate = .readPath ∨ s.pstate = .waitD ∨ s.pstate = .waitDColon ∨ s.pstate = .readData) ∧
    let t : State := { s with w := 0, pathStart := 0, pathLen := 0, dataStart := 0, dataLen := 0, pstate := .error,
                              events := s.events ++ [.scratchOverflow c] }
    exec (.pOvf s.pstate.code c) s = .next t ∧ s.parseByte c = .next t

/-- R142 and R156: the open brace starts a frame out of WaitStart and out of Error; the row is the one the byte selects. -/
def Obligations.FrameStartRows : Prop :=
  ∀ s : State, s.w < s.cfg.size →
    let t : State := { s with w := 0, pathStart := 0, pathLen := 0, dataStart := 0, dataLen := 0,
                              scrGen := s.scrGen + 1, pstate := .waitP }
    (s.pstate = .waitStart → exec .pWsLbrace s = .next t ∧ s.parseByte 0x7B = .next t) ∧
    (s.pstate = .error → exec .pErLbrace s = .next t ∧ s.parseByte 0x7B = .next t)

/-- R143 and R157: any other byte in WaitStart and in Error changes nothing. -/
def Obligations.IgnoredByteRows : Prop :=
  ∀ (s : State) (c : Byte), s.w < s.cfg.size → c ≠ 0x7B →
    (s.pstate = .waitStart → exec (.pWsOther c) s = .next s ∧ s.parseByte c = .next s) ∧
    (s.pstate = .error → exec (.pErOther c) s = .next s ∧ s.parseByte c = .next s)

/-- R144 and R150: the tags move the parser on and change nothing else. -/
def Obligations.TagRows : Prop :=
  ∀ s : State, s.w < s.cfg.size →
    (s.pstate = .waitP → exec .pWpP s = .next { s with pstate := .waitPColon } ∧
      s.parseByte 0x70 = .next { s with pstate := .waitPColon }) ∧
    (s.pstate = .waitD → exec .pWdD s = .next { s with pstate := .waitDColon } ∧
      s.parseByte 0x64 = .next { s with pstate := .waitDColon })

/-- R145, R147, R151, R153: a byte the state does not accept enters Error with EV_MALFORMED; the indices are not reset. -/
def Obligations.MismatchRows : Prop :=
  ∀ (s : State) (c : Byte), s.w < s.cfg.size →
    let t : State := { s with pstate := .error, events := s.events ++ [.malformed s.pstate c] }
    (s.pstate = .waitP → c ≠ 0x70 → exec (.pWpOther c) s = .next t ∧ s.parseByte c = .next t) ∧
    (s.pstate = .waitPColon → c ≠ 0x3A → exec (.pWpcOther c) s = .next t ∧ s.parseByte c = .next t) ∧
    (s.pstate = .waitD → c ≠ 0x64 → exec (.pWdOther c) s = .next t ∧ s.parseByte c = .next t) ∧
    (s.pstate = .waitDColon → c ≠ 0x3A → exec (.pWdcOther c) s = .next t ∧ s.parseByte c = .next t)

/-- R146 and R152: the colons after the tags mark where path and data start; under the invariant that is 0, and one past the path. -/
def Obligations.MarkRows : Prop :=
  ∀ s : State, s.w < s.cfg.size →
    (s.pstate = .waitPColon → exec .pWpcColon s = .next { s with pathStart := s.w, pstate := .readPath } ∧
      s.parseByte 0x3A = .next { s with pathStart := s.w, pstate := .readPath }) ∧
    (s.pstate = .waitDColon → exec .pWdcColon s = .next { s with dataStart := s.w, pstate := .readData } ∧
      s.parseByte 0x3A = .next { s with dataStart := s.w, pstate := .readData }) ∧
    (s.Inv → (s.pstate = .waitPColon → s.w = 0) ∧ (s.pstate = .waitDColon → s.w = s.pathLen + 1))

/-- R148: the colon that ends the path writes the sentinel at the write index and nowhere else, and records the length without it. -/
def Obligations.PathEndRow : Prop :=
  ∀ s : State, s.w < s.cfg.size → s.pstate = .readPath →
    ∃ t, exec .pRpColon s = .next t ∧ s.parseByte 0x3A = .next t ∧
      t = { s with scr := t.scr, pathLen := s.w - s.pathStart, w := s.w + 1, pstate := .waitD } ∧
      ∀ a, Memory.read t.scr a = if a = s.w then some 0x00 else Memory.read s.scr a

/-- R149 and R155: any other byte of a path or of data is stored at the write index and nowhere else, and the index moves on. -/
def Obligations.AppendRows : Prop :=
  ∀ (s : State) (c : Byte) (i : Instr), s.w < s.cfg.size →
    (s.pstate = .readPath ∧ c ≠ 0x3A ∧ i = .pRpOther c) ∨ (s.pstate = .readData ∧ c ≠ 0x7D ∧ i = .pRdOther c) →
    ∃ t, exec i s = .next t ∧ s.parseByte c = .next t ∧ t = { s with scr := t.scr, w := s.w + 1 } ∧
      ∀ a, Memory.read t.scr a = if a = s.w then some c else Memory.read s.scr a

/-- R154: the close brace writes the sentinel at the write index and nowhere else, clears the indices, and queues the view, the parser
returning to WaitStart; with FQ full it drops the frame and enters Error. Under the invariant the view is `{0, P, P+1, L}`. -/
def Obligations.FrameEndRow : Prop :=
  ∀ s : State, s.w < s.cfg.size → s.pstate = .readData → s.fq.prod < s.cfg.cFq →
    (s.Inv → s.pathStart = 0 ∧ s.dataStart = s.pathLen + 1 ∧ s.dataStart ≤ s.w) ∧
    ∃ t, exec .pRdRbrace s = .next t ∧ s.parseByte 0x7D = .next t ∧
      (∀ a, Memory.read t.scr a = if a = s.w then some 0x00 else Memory.read s.scr a) ∧
      t = if (s.fq.prod + 1) % s.cfg.cFq = s.fq.cons
        then { s with scr := t.scr, w := 0, pathStart := 0, pathLen := 0, dataStart := 0, dataLen := 0, pstate := .error,
                      events := s.events ++ [.pushFull .fq, .frameqFull] }
        else { s with scr := t.scr, w := 0, pathStart := 0, pathLen := 0, dataStart := 0, dataLen := 0, pstate := .waitStart,
                      fq := s.fq.pushed s.cfg.fq ⟨s.pathStart, s.pathLen, s.dataStart, s.w - s.dataStart, s.scrGen⟩ }

/-- The model's choice (log entry 9): a parser row is refused where no byte selects it by R95, and never where one does. -/
def Obligations.RowsRunWhereSelected : Prop :=
  ∀ (s : State) (i : Instr), isParserRow i = true →
    ((∀ c, decode (s.byteSignal c) ≠ .ok i) → exec i s = .refused .rowNotSelected) ∧
    (∀ c, decode (s.byteSignal c) = .ok i → exec i s ≠ .refused .rowNotSelected)

/-- R140, R242: a byte parsed never fails (its queue index in range), and touches the parser, the scratch byte at the write index and FQ
alone: nothing shows at a port. -/
def Obligations.ParserTouchesNothingElse : Prop :=
  ∀ (s : State) (c : Byte), s.fq.prod < s.cfg.cFq →
    ∃ t, s.parseByte c = .next t ∧
      t = { s with scr := t.scr, fq := t.fq, pstate := t.pstate, w := t.w, pathStart := t.pathStart, pathLen := t.pathLen,
                   dataStart := t.dataStart, dataLen := t.dataLen, scrGen := t.scrGen, events := t.events } ∧
      ∀ a, a ≠ s.w → Memory.read t.scr a = Memory.read s.scr a

/-- R255: a step that leaves Error is an open brace parsed, which clears the indices and goes to WaitP, or RESET. -/
def Obligations.ErrorExit : Prop :=
  ∀ s t : State, s.pstate = .error → step s = .next t → t.pstate ≠ .error →
    (t.pstate = .waitP ∧ t.w = 0 ∧ t.pathStart = 0 ∧ t.pathLen = 0 ∧ t.dataStart = 0 ∧ t.dataLen = 0 ∧
      s.pollActive = true ∧ (∃ rest, s.sched = .task :: rest) ∧ ∃ q, s.rx.pop s.cfg.rx = .ok (some (0x7B, q))) ∨
    (t.pstate = .waitStart ∧ ∃ rest, s.sched = .port (.rst 1) :: rest)

/-- R254: a step enters Error only by a byte parsed, under one of six conditions; the overflow and the dropped frame clear the indices, the
four mismatches keep them. -/
def Obligations.ErrorEntry : Prop :=
  ∀ s t : State, s.pstate ≠ .error → step s = .next t → t.pstate = .error →
    (s.pollActive = true ∧ ∃ rest, s.sched = .task :: rest) ∧
    ∃ c q, s.rx.pop s.cfg.rx = .ok (some (c, q)) ∧
      (((s.cfg.size ≤ s.w ∨ (s.pstate = .readData ∧ c = 0x7D ∧ (s.fq.prod + 1) % s.cfg.cFq = s.fq.cons)) ∧
          t.w = 0 ∧ t.pathStart = 0 ∧ t.pathLen = 0 ∧ t.dataStart = 0 ∧ t.dataLen = 0) ∨
        (((s.pstate = .waitP ∧ c ≠ 0x70) ∨ (s.pstate = .waitPColon ∧ c ≠ 0x3A) ∨ (s.pstate = .waitD ∧ c ≠ 0x64) ∨
            (s.pstate = .waitDColon ∧ c ≠ 0x3A)) ∧
          t.w = s.w ∧ t.pathStart = s.pathStart ∧ t.pathLen = s.pathLen ∧ t.dataStart = s.dataStart ∧ t.dataLen = s.dataLen))

/-- R215, R61, R159: the bytes of any frame the encoder builds, with no colon in its path and no close brace in its items, that fits the
scratch buffer, parsed from WaitStart or Error with room in FQ, queue exactly the view `{0, P, P+1, L}` over a scratch buffer that
holds the path and the data; nothing shows at a port and no event is raised. -/
def Obligations.FrameRoundTrip : Prop :=
  ∀ (s : State) (path : List Byte) (texts : List (List Byte)),
    (s.pstate = .waitStart ∨ s.pstate = .error) → s.w < s.cfg.size →
    0x3A ∉ path → (∀ t ∈ texts, 0x7D ∉ t) →
    path.length + (joinItems texts).length + 2 ≤ s.cfg.size →
    s.fq.prod < s.cfg.cFq → (s.fq.prod + 1) % s.cfg.cFq ≠ s.fq.cons →
    ∃ t, s.parseBytes (frameBytes path texts) = .next t ∧
      t.pstate = .waitStart ∧ t.w = 0 ∧ t.scrGen = s.scrGen + 1 ∧ t.outs = s.outs ∧ t.events = s.events ∧
      t.fq = s.fq.pushed s.cfg.fq ⟨0, path.length, path.length + 1, (joinItems texts).length, s.scrGen + 1⟩ ∧
      t.readSlice 0 path.length = .ok path ∧
      t.readSlice (path.length + 1) (joinItems texts).length = .ok (joinItems texts)

/-- R163, R288: with the scratch buffer full, the next byte is lost whatever it is, bytes that are no open brace are ignored, and the first
open brace after them starts a frame. -/
def Obligations.OverflowRecovery : Prop :=
  ∀ (s : State) (c : Byte) (skipped : List Byte), s.cfg.size ≤ s.w → 0x7B ∉ skipped →
    ∃ t, s.parseBytes (c :: skipped ++ [0x7B]) = .next t ∧
      t.pstate = .waitP ∧ t.w = 0 ∧ t.scrGen = s.scrGen + 1 ∧ t.scr = s.scr ∧ t.fq = s.fq ∧
      t.events = s.events ++ [.scratchOverflow c]

/-! ## The whole machine -/

/-- The invariant holds after reset, whatever the configuration. -/
def Obligations.ResetMeetsInvariant : Prop :=
  (∀ c : Config, (State.resetWith c).Inv) ∧ State.reset.Inv

/-- R128, R159, R162, R263: every step keeps the invariant, whichever agent takes it: the queues' index order and written slots, the views'
layout, the parser's layout in each state, the canonical storages, the one running task operation. -/
def Obligations.StepKeepsInvariant : Prop :=
  ∀ s t : State, s.Inv → step s = .next t → t.Inv

/-- R272: under the invariant no step reads a queue slot or a scratch byte that was not written, none leaves a storage, and the parser
never runs an unselected row. -/
def Obligations.NoUnwrittenRead : Prop :=
  ∀ s : State, s.Inv →
    step s ≠ .fault .uninitRead ∧ step s ≠ .fault .noSuchAddress ∧ step s ≠ .refused .rowNotSelected

/-- R160: P.POLL is accepted when no operation runs; each of its iterations parses the popped byte, and the pop that finds RXQ empty
ends it with `cmd_ok = 1`. That the acceptance is a step of its own, before the first pop, is the model's inference (log entry 10). -/
def Obligations.PollIterates : Prop :=
  (∀ s : State, s.idle → exec .pPoll s = .next { s with pollActive := true }) ∧
  ∀ (s : State) (rest : List Turn), s.sched = .task :: rest → s.pollActive = true →
    (∀ c : Byte, s.rx.prodView s.cfg.rx ≠ s.rx.cons → s.rx.cons < s.cfg.cRx → Memory.read s.rx.store s.rx.cons = some c →
      step s = ({ s with sched := rest, rx := s.rx.popped s.cfg.rx } : State).parseByte c) ∧
    (s.rx.prodView s.cfg.rx = s.rx.cons → step s = .next
      { s with sched := rest, pollActive := false, events := s.events ++ [.popEmpty .rxq], outs := s.outs ++ [.cmdDone true] })

/-- R160, R161, R289: a running P.POLL that gets as many turns as there are visible bytes, and one more, with no other agent between,
consumes them all and completes, showing nothing but its completion. -/
def Obligations.PollDrainsVisible : Prop :=
  ∀ (s : State) (rest : List Turn), s.Inv → s.pollActive = true →
    s.sched = List.replicate (s.rx.visible s.cfg.rx + 1) .task ++ rest →
    ∃ t, Host.Core.run Sys2Proof.core (s.rx.visible s.cfg.rx + 1) s = .next t ∧
      t.pollActive = false ∧ t.sched = rest ∧ t.rx.cons = s.rx.prodView s.cfg.rx ∧ t.rx.emptyC t.cfg.rx = true ∧
      t.tx = s.tx ∧ t.outs = s.outs ++ [.cmdDone true]

/-! ## The command port -/

/-- R104, R263, U19: while an operation runs, no command is accepted, whatever its code and its operands. That a reserved code waits too,
and that the port is tested before the operands, are the model's (log entries 12 and 13). -/
def Obligations.BusyCommandsRefused : Prop :=
  ∀ s : State, (s.pollActive = true ∨ s.encRem ≠ []) →
    exec .pPoll s = .refused .commandBusy ∧ exec .dPoll s = .refused .commandBusy ∧
    (∀ cb, exec (.nSet cb) s = .refused .commandBusy) ∧
    (∀ path, exec (.eNone path) s = .refused .commandBusy) ∧
    (∀ path vals, exec (.eInt path vals) s = .refused .commandBusy) ∧
    (∀ path vals, exec (.eFloat path vals) s = .refused .commandBusy) ∧
    (∀ path strs, exec (.eStr path strs) s = .refused .commandBusy) ∧
    exec .cmdReserved0 s = .refused .commandBusy ∧ (∀ low, exec (.cmdReserved8F low) s = .refused .commandBusy)

/-- R101: a command with a reserved code, accepted when no operation runs, changes no state and completes with `cmd_ok = 0` and
EV_RESERVED_OP, whatever operands stand beside it (R105: it uses none). -/
def Obligations.ReservedCodesChangeNothing : Prop :=
  ∀ s : State, s.idle →
    exec .cmdReserved0 s = .next { s with events := s.events ++ [.reservedOp 0x0], outs := s.outs ++ [.cmdDone false] } ∧
    (∀ low : BitVec 3, exec (.cmdReserved8F low) s =
      .next { s with events := s.events ++ [.reservedOp (1#1 ++ low)], outs := s.outs ++ [.cmdDone false] }) ∧
    (∀ (c : CmdSig) (rest : List Turn), s.sched = .port (.cmd c) :: rest → (c.op = 0x0 ∨ 0x8 ≤ c.op) →
      step s = .next { s with sched := rest, events := s.events ++ [.reservedOp c.op], outs := s.outs ++ [.cmdDone false] })

/-- R220: N.SET overwrites the slot, with a callback or with empty, and changes nothing else; it cannot occur while an encoder operation
runs. -/
def Obligations.NSetWritesSlot : Prop :=
  ∀ (s : State) (cb : Option Nat),
    (s.idle → exec (.nSet cb) s = .next { s with ncb := cb, outs := s.outs ++ [.cmdDone true] }) ∧
    (s.encRem ≠ [] → exec (.nSet cb) s = .refused .commandBusy)

/-- R203, R206 to R209, R201, R213: an encoder operation of at most K values computes the whole frame and pushes no byte yet; more than K
values, or a float outside the range, is refused. That the acceptance is a step of its own is the model's inference (log entry 10), and
that a float outside the range is named before the number of values is the model's choice (log entry 13). -/
def Obligations.EncoderOperationsStart : Prop :=
  ∀ (s : State) (path : List Byte), s.idle →
    exec (.eNone path) s = .next { s with encRem := frameBytes path [], encSent := 0 } ∧
    (∀ vals : List Word,
      (vals.length ≤ s.cfg.maxItems →
        exec (.eInt path vals) s = .next { s with encRem := frameBytes path (vals.map fmtInt), encSent := 0 }) ∧
      (s.cfg.maxItems < vals.length → exec (.eInt path vals) s = .refused .tooManyValues) ∧
      ((∀ x ∈ vals, floatInRange x = true) → vals.length ≤ s.cfg.maxItems →
        exec (.eFloat path vals) s = .next { s with encRem := frameBytes path (vals.map fmtFloat), encSent := 0 }) ∧
      ((∀ x ∈ vals, floatInRange x = true) → s.cfg.maxItems < vals.length →
        exec (.eFloat path vals) s = .refused .tooManyValues) ∧
      ((∃ x ∈ vals, floatInRange x = false) → exec (.eFloat path vals) s = .refused .floatRange)) ∧
    (∀ strs : List (List Byte),
      (strs.length ≤ s.cfg.maxItems →
        exec (.eStr path strs) s = .next { s with encRem := frameBytes path strs, encSent := 0 }) ∧
      (s.cfg.maxItems < strs.length → exec (.eStr path strs) s = .refused .tooManyValues))

/-- R173: the route matched is the first whose path equals the frame's byte for byte; none exactly when no entry's does. -/
def Obligations.MatchRouteFirst : Prop :=
  ∀ (routes : List Route) (path : List Byte),
    (∀ (i : Nat) (r : Route), matchRoute routes path = some (i, r) ↔
      routes[i]? = some r ∧ r.path = path ∧ ∀ j < i, ∀ r', routes[j]? = some r' → r'.path ≠ path) ∧
    (matchRoute routes path = none ↔ ∀ r ∈ routes, r.path ≠ path)

/-- R204: one turn of a running encoder operation pushes the next byte and notifies, completing after the last; with TXQ full it aborts
the rest, completing with `cmd_ok = 0`. -/
def Obligations.EmitOneByte : Prop :=
  ∀ (s : State) (rest : List Turn) (b : Byte) (bs : List Byte),
    s.sched = .task :: rest → s.pollActive = false → s.encRem = b :: bs → s.tx.prod < s.cfg.cTx →
    step s = .next (if (s.tx.prod + 1) % s.cfg.cTx = s.tx.consView s.cfg.tx
      then { s with sched := rest, encRem := [], encSent := 0, events := s.events ++ [.pushFull .txq, .encAbort s.encSent],
                    outs := s.outs ++ [.cmdDone false] }
      else if bs = []
        then { s with sched := rest, tx := s.tx.pushed s.cfg.tx b, encRem := [], encSent := 0,
                      outs := s.outs ++ notices s.ncb 1 ++ [.cmdDone true] }
        else { s with sched := rest, tx := s.tx.pushed s.cfg.tx b, encRem := bs, encSent := s.encSent + 1,
                      outs := s.outs ++ notices s.ncb 1 })

/-- R204, R205: a running encoder operation given its turns with no other agent between puts the whole frame into TXQ when there is room,
and else exactly as many bytes as there is room for, not retracted; one notification for each byte enqueued; one completion. -/
def Obligations.EncoderRunPrefix : Prop :=
  ∀ (s : State) (rest : List Turn), s.Inv → s.pollActive = false → s.encRem ≠ [] →
    (s.encRem.length ≤ s.tx.room s.cfg.tx → s.sched = List.replicate s.encRem.length .task ++ rest →
      ∃ t, Host.Core.run Sys2Proof.core s.encRem.length s = .next t ∧
        t.tx.live t.cfg.tx = s.tx.live s.cfg.tx ++ s.encRem ∧ t.encRem = [] ∧ t.sched = rest ∧ t.events = s.events ∧
        t.outs = s.outs ++ notices s.ncb s.encRem.length ++ [.cmdDone true]) ∧
    (s.tx.room s.cfg.tx < s.encRem.length → s.sched = List.replicate (s.tx.room s.cfg.tx + 1) .task ++ rest →
      ∃ t, Host.Core.run Sys2Proof.core (s.tx.room s.cfg.tx + 1) s = .next t ∧
        t.tx.live t.cfg.tx = s.tx.live s.cfg.tx ++ s.encRem.take (s.tx.room s.cfg.tx) ∧ t.encRem = [] ∧ t.sched = rest ∧
        t.events = s.events ++ [.pushFull .txq, .encAbort (s.encSent + s.tx.room s.cfg.tx)] ∧
        t.outs = s.outs ++ notices s.ncb (s.tx.room s.cfg.tx) ++ [.cmdDone false])

/-! ## Texts and values -/

/-- R202: the bytes of a frame and their number. -/
def Obligations.FrameBytesShape : Prop :=
  ∀ (path : List Byte) (texts : List (List Byte)),
    frameBytes path texts =
      [0x7B, 0x70, 0x3A] ++ path ++ [0x3A, 0x64, 0x3A] ++ List.intercalate [0x2C] texts ++ [0x7D] ∧
    (frameBytes path texts).length = 7 + path.length + (texts.map List.length).sum + (texts.length - 1)

/-- R207, R215: the integers an E.INT writes classify as Int at the receiver and parse back to themselves, drawing no free value. -/
def Obligations.IntegerTextRoundTrip : Prop :=
  ∀ (vals : List Word) (k : Nat), vals ≠ [] →
    classify (joinItems (vals.map fmtInt)) = .int ∧
    parseInts k ((items (joinItems (vals.map fmtInt))).map Prod.snd) = (vals.map Val.int, k)

/-- R210, R211: the text of an integer is '-' exactly when it is negative, then the decimal digits of its magnitude with no leading
zero, 1 to 11 bytes in all; the least value's text is the fixed string. -/
def Obligations.IntegerText : Prop :=
  (∀ v : Word, ∃ ds : List Byte,
    fmtInt v = (if v.toInt < 0 then [0x2D] else []) ++ ds ∧ ds ≠ [] ∧ (∀ b ∈ ds, 0x30 ≤ b.toNat ∧ b.toNat ≤ 0x39) ∧
    digitsValue ds = v.toInt.natAbs ∧ (ds = [0x30] ∨ ds.head? ≠ some 0x30) ∧ (fmtInt v).length ≤ 11) ∧
  fmtInt 0x80000000 = [0x2D, 0x32, 0x31, 0x34, 0x37, 0x34, 0x38, 0x33, 0x36, 0x34, 0x38]

/-- R212, R213: the text of a finite float is the sign of a value below zero, an integer part, a point and three digits; the number it
spells differs from the value's magnitude by at most half a unit of 0.001, an exact tie taking the larger thousandth. R208, R215: the texts
an E.FLOAT writes classify as Float at the receiver and parse back, drawing no free value, to the binary32 numbers nearest to the
thousandths they spell. -/
def Obligations.FloatTextPrecision : Prop :=
  (∀ x : Word, floatNeg x = true ↔ x.msb = true ∧ x ≠ 0x80000000) ∧
  (∀ x : Word, isFinite x = true →
    ∃ ip m : Nat, m < 1000 ∧
      fmtFloat x = (if floatNeg x then [0x2D] else []) ++ dec ip ++ [0x2E] ++ threeDigits m ∧
      digitsValue (dec ip) = ip ∧ digitsValue (threeDigits m) = m ∧
      (let err : Int := ((1000 * floatUnits x : Nat) : Int) - (((1000 * ip + m) * 2 ^ 149 : Nat) : Int)
       2 * err.natAbs ≤ 2 ^ 149 ∧ (2 * err.natAbs = 2 ^ 149 → err < 0)) ∧
      (floatInRange x = true → ∀ k : Nat, parseFloat k (fmtFloat x) =
        (if floatNeg x then BitVec.ofNat 32 (roundBits (1000 * ip + m) 1000) ^^^ 0x80000000
         else BitVec.ofNat 32 (roundBits (1000 * ip + m) 1000), k))) ∧
  (∀ (vals : List Word) (k : Nat), vals ≠ [] → (∀ x ∈ vals, floatInRange x = true) →
    classify (joinItems (vals.map fmtFloat)) = .float ∧
    parseFloats k ((items (joinItems (vals.map fmtFloat))).map Prod.snd) =
      (vals.map (fun x => Val.float (parseFloat k (fmtFloat x)).1), k))

/-- R183: RoundFLT gives the binary32 number nearest to the rational `n / d`, a tie going to the even significand; it leaves the finite
range exactly from `2^128 - 2^103` up, and is then the next free value, whatever that is. -/
def Obligations.RoundFloatNearest : Prop :=
  ∀ n d : Nat, 0 < d →
    (roundBits n d < 0x7F800000 ↔ n < (2 ^ 128 - 2 ^ 103) * d) ∧
    (roundBits n d < 0x7F800000 → ∀ x < 0x7F800000,
      let err := fun y : Nat => (((floatUnits (BitVec.ofNat 32 y) * d : Nat) : Int) - ((n * 2 ^ 149 : Nat) : Int)).natAbs
      err (roundBits n d) ≤ err x ∧ (err (roundBits n d) = err x → x ≠ roundBits n d → roundBits n d % 2 = 0)) ∧
    ∀ k : Nat, roundFloat k n d =
      if n < (2 ^ 128 - 2 ^ 103) * d then (BitVec.ofNat 32 (roundBits n d), k) else (Config.freeFloat k, k + 1)

/-- R180, R181: one leading '-', the digit run, and nothing after it counts; no digit gives 0; a value outside the 32-bit range is the
next free value, whatever that is. -/
def Obligations.ParseIntField : Prop :=
  ∀ (k : Nat),
    (∀ (neg : Bool) (ds rest : List Byte), ds ≠ [] → (∀ b ∈ ds, isDigit b = true) → (∀ b ∈ rest.head?, isDigit b = false) →
      let v : Int := if neg then -(digitsValue ds : Int) else digitsValue ds
      parseInt k ((if neg then [0x2D] else []) ++ ds ++ rest) =
        if -2 ^ 31 ≤ v ∧ v ≤ 2 ^ 31 - 1 then (BitVec.ofInt 32 v, k) else (Config.freeInt k, k + 1)) ∧
    (∀ (neg : Bool) (rest : List Byte), (∀ b ∈ rest.head?, isDigit b = false) → (neg = false → rest.head? ≠ some 0x2D) →
      parseInt k ((if neg then [0x2D] else []) ++ rest) = (0, k)) ∧
    (digitsValue [] = 0 ∧ ∀ (ds : List Byte) (b : Byte), digitsValue (ds ++ [b]) = 10 * digitsValue ds + (b.toNat - 0x30))

/-- R182: one leading '-', the integer digits, and after a '.' the fraction digits; a field with neither gives +0.0; the sign is set on
the rounded value. -/
def Obligations.ParseFloatField : Prop :=
  ∀ (k : Nat) (neg : Bool) (ip fp rest : List Byte),
    (∀ b ∈ ip, isDigit b = true) → (∀ b ∈ fp, isDigit b = true) → (∀ b ∈ rest.head?, isDigit b = false) →
    let sign : List Byte := if neg then [0x2D] else []
    let signed := fun r : Word × Nat => (if neg then r.1 ^^^ 0x80000000 else r.1, r.2)
    (ip ++ fp ≠ [] → parseFloat k (sign ++ ip ++ [0x2E] ++ fp ++ rest) =
      signed (roundFloat k (digitsValue ip * 10 ^ fp.length + digitsValue fp) (10 ^ fp.length))) ∧
    (ip ≠ [] → rest.head? ≠ some 0x2E → parseFloat k (sign ++ ip ++ rest) = signed (roundFloat k (digitsValue ip) 1)) ∧
    (ip ++ fp = [] → parseFloat k (sign ++ [0x2E] ++ rest) = (0, k)) ∧
    (rest.head? ≠ some 0x2E → (neg = false → rest.head? ≠ some 0x2D) → parseFloat k (sign ++ rest) = (0, k))

/-- R178: every comma separates and empty items are items: a payload with n commas has n + 1 items, none holding a comma, which joined by
commas are the payload, each at its position. -/
def Obligations.ItemsSplitAtCommas : Prop :=
  ∀ data : List Byte,
    joinItems ((items data).map Prod.snd) = data ∧
    (∀ p ∈ items data, 0x2C ∉ p.2 ∧ (data.drop p.1).take p.2.length = p.2) ∧
    (items data).length = data.count 0x2C + 1 ∧
    ((items data)[0]?.map Prod.fst = some 0) ∧
    ∀ i (h : i + 1 < (items data).length),
      (items data)[i + 1].1 = (items data)[i].1 + (items data)[i].2.length + 1

/-! ## The dispatcher -/

/-- R171, R172, R280: with FQ empty D.POLL changes no state and completes; a view whose frame the parser has left behind is
FAULT_STALE_VIEW. -/
def Obligations.DPollEmptyOrStale : Prop :=
  ∀ s : State, s.idle →
    (s.fq.prod = s.fq.cons → exec .dPoll s = .next
      { s with events := s.events ++ [.popEmpty .fq], outs := s.outs ++ [.cmdDone true] }) ∧
    (∀ v : View, s.fq.prod ≠ s.fq.cons → s.fq.cons < s.cfg.cFq → Memory.read s.fq.store s.fq.cons = some v →
      v.gen ≠ s.scrGen → exec .dPoll s = .fault .staleView)

/-- R173, R177, R188: a frame whose path matches no route, and a frame whose classified type is not the route's, are popped and gone, with
no handler call and nothing else of the spec's state changed. (The classifier's scan is the model's and is cleared, log entry 8.) -/
def Obligations.DPollDrops : Prop :=
  ∀ (s : State) (v : View) (path : List Byte), s.idle →
    s.fq.prod ≠ s.fq.cons → s.fq.cons < s.cfg.cFq → Memory.read s.fq.store s.fq.cons = some v → v.gen = s.scrGen →
    s.readSlice v.pathOff v.pathLen = .ok path →
    (matchRoute s.cfg.routes path = none → exec .dPoll s = .next
      { s with fq := s.fq.popped s.cfg.fq, events := s.events ++ [.routeMiss], outs := s.outs ++ [.cmdDone true] }) ∧
    (∀ (r : Nat × Route) (data : List Byte), matchRoute s.cfg.routes path = some r → v.dataLen ≠ 0 →
      s.readSlice v.dataOff v.dataLen = .ok data → classify data ≠ r.2.expected → exec .dPoll s = .next
      { s with fq := s.fq.popped s.cfg.fq, scan := Scan.start, outs := s.outs ++ [.cmdDone true],
               events := s.events ++ [.typeMismatch (classify data) r.2.expected] })

/-- R174, R179, R180, R182, R186: empty data calls the matched handler with None whatever it expects; Int and Float data of the expected
type call it once with at most K parsed items, in payload order: value `i` is ParseInt or ParseFloat of item `i`, after the draws of the
items before it. (The scan cleared is the model's, log entry 8; the draw count is that of entries 5 and 6.) -/
def Obligations.DPollCallsNoneAndNumbers : Prop :=
  (∀ (k : Nat) (fs : List (List Byte)),
    (parseInts k fs).1.length = fs.length ∧ (parseInts k fs).2 = drawsAfter parseInt k fs ∧
    (parseFloats k fs).1.length = fs.length ∧ (parseFloats k fs).2 = drawsAfter parseFloat k fs ∧
    ∀ (i : Nat) (f : List Byte), fs[i]? = some f →
      (parseInts k fs).1[i]? = some (.int (parseInt (drawsAfter parseInt k (fs.take i)) f).1) ∧
      (parseFloats k fs).1[i]? = some (.float (parseFloat (drawsAfter parseFloat k (fs.take i)) f).1)) ∧
  ∀ (s : State) (v : View) (path : List Byte) (r : Nat × Route), s.idle →
    s.fq.prod ≠ s.fq.cons → s.fq.cons < s.cfg.cFq → Memory.read s.fq.store s.fq.cons = some v → v.gen = s.scrGen →
    s.readSlice v.pathOff v.pathLen = .ok path → matchRoute s.cfg.routes path = some r →
    (v.dataLen = 0 → exec .dPoll s = .next
      { s with fq := s.fq.popped s.cfg.fq,
               outs := s.outs ++ [.call ⟨r.1, r.2.handler, .none, 0, []⟩, .cmdDone true] }) ∧
    (∀ data : List Byte, v.dataLen ≠ 0 → s.readSlice v.dataOff v.dataLen = .ok data → classify data = r.2.expected →
      let fields := ((items data).take s.cfg.maxItems).map Prod.snd
      let truncated : List Event := if s.cfg.maxItems < (items data).length then [.itemsTruncated (items data).length] else []
      let count := min (items data).length s.cfg.maxItems
      (classify data = .int → exec .dPoll s = .next
        { s with fq := s.fq.popped s.cfg.fq, scan := Scan.start, draws := (parseInts s.draws fields).2,
                 events := s.events ++ truncated,
                 outs := s.outs ++ [.call ⟨r.1, r.2.handler, .int, count, (parseInts s.draws fields).1⟩, .cmdDone true] }) ∧
      (classify data = .float → exec .dPoll s = .next
        { s with fq := s.fq.popped s.cfg.fq, scan := Scan.start, draws := (parseFloats s.draws fields).2,
                 events := s.events ++ truncated,
                 outs := s.outs ++ [.call ⟨r.1, r.2.handler, .float, count, (parseFloats s.draws fields).1⟩, .cmdDone true] }))

/-- R184, R186, R179: String data of the expected type is split in place, every comma of the payload and no other scratch byte becoming
the sentinel, and the handler is called once with the first K items as slices with the bytes they denote. (The scan cleared is the model's,
log entry 8.) -/
def Obligations.DPollCallsStrings : Prop :=
  ∀ (s : State) (v : View) (path data : List Byte) (r : Nat × Route), s.idle →
    s.fq.prod ≠ s.fq.cons → s.fq.cons < s.cfg.cFq → Memory.read s.fq.store s.fq.cons = some v → v.gen = s.scrGen →
    s.readSlice v.pathOff v.pathLen = .ok path → matchRoute s.cfg.routes path = some r →
    v.dataLen ≠ 0 → s.readSlice v.dataOff v.dataLen = .ok data → classify data = .string → r.2.expected = .string →
    ∃ t, exec .dPoll s = .next t ∧
      t = { s with fq := s.fq.popped s.cfg.fq, scr := t.scr, scan := Scan.start,
                   events := s.events ++ (if s.cfg.maxItems < (items data).length
                     then [.itemsTruncated (items data).length] else []),
                   outs := s.outs ++ [.call ⟨r.1, r.2.handler, .string, min (items data).length s.cfg.maxItems,
                     ((items data).take s.cfg.maxItems).map (fun p => Val.str (v.dataOff + p.1) p.2.length p.2)⟩, .cmdDone true] } ∧
      ∀ a, Memory.read t.scr a =
        if v.dataOff ≤ a ∧ data[a - v.dataOff]? = some 0x2C then some 0x00 else Memory.read s.scr a

/-- R96, R175: each class row advances the scan by its class and changes nothing else (the scan is the model's, log entry 8); run over the
bytes of a payload from the start of a scan, they give Classify's type. That CLS.OTHER with a byte of another class is refused as
rowNotSelected is the model's choice (log entry 9). -/
def Obligations.ClassRowsClassify : Prop :=
  ∀ s : State,
    (∀ d, exec (.clsDigit07 d) s = .next s) ∧ (∀ d, exec (.clsDigit89 d) s = .next s) ∧
    exec .clsMinus s = .next s ∧ exec .clsComma s = .next s ∧
    exec .clsDot s = .next { s with scan := { s.scan with dot := true } } ∧
    (∀ b, byteClass b = .other → exec (.clsOther b) s = .next { s with scan := { s.scan with other := true } }) ∧
    (∀ b, byteClass b ≠ .other → exec (.clsOther b) s = .refused .rowNotSelected) ∧
    ∀ data : List Byte, ∃ t, ({ s with scan := Scan.start } : State).classBytes data = .next t ∧
      t.scan.type = classify data ∧ t = { s with scan := t.scan }

/-- R270, R271: RESET with no operation in flight puts every piece of the engine's state at its reset value and leaves the configuration;
with one in flight it is FAULT_RESET_BUSY. (That the record of the run, the turns to come and the draw count stay is the model's
choice, log entry 17.) -/
def Obligations.ResetRestoresState : Prop :=
  ∀ s : State,
    (s.idle → exec .rst s = .next
      { cfg := s.cfg, rx := ⟨[], 0, 0, 0, 0⟩, fq := ⟨[], 0, 0, 0, 0⟩, tx := ⟨[], 0, 0, 0, 0⟩, scr := [], pstate := .waitStart,
        w := 0, pathStart := 0, pathLen := 0, dataStart := 0, dataLen := 0, ncb := none, pollActive := false, encRem := [],
        scrGen := 0, encSent := 0, scan := ⟨false, false⟩, draws := s.draws, sched := s.sched, events := s.events,
        outs := s.outs }) ∧
    ((s.pollActive = true ∨ s.encRem ≠ []) → exec .rst s = .fault .resetBusy)
end

