-- ==== Sys2Proof/Laws/Memory.lean ====
section
/-! SUPPORT. The laws of a storage: what a read after a write gives, and that every operation keeps the canonical form. -/

namespace Sys2Proof.Machine

variable {α : Type}

@[simp] theorem Memory.read_nil (a : Nat) : Memory.read ([] : Memory α) a = none := rfl

@[simp] theorem Memory.read_cons (b : Nat) (x : α) (m : Memory α) (a : Nat) :
    Memory.read ((b, x) :: m) a = if a = b then some x else Memory.read m a := rfl

/-- A canonical storage lists nothing at or below the address before its first entry. -/
theorem Memory.read_eq_none_of_lt (m : Memory α) (a : Nat) (h : ∀ p ∈ m, a < p.1) : Memory.read m a = none := by
  induction m with
  | nil => rfl
  | cons p m ih =>
    obtain ⟨b, x⟩ := p
    have hb : a < b := h (b, x) (by simp)
    rw [Memory.read_cons, if_neg (by omega)]
    exact ih (fun p hp => h p (List.mem_cons_of_mem _ hp))

/-- A read after a write: the value written at its address, and what was there before at every other. -/
theorem Memory.read_write (m : Memory α) (a : Nat) (v : α) (c : Nat) :
    Memory.read (Memory.write m a v) c = if c = a then some v else Memory.read m c := by
  induction m with
  | nil => simp [Memory.write]
  | cons p m ih =>
    obtain ⟨b, x⟩ := p
    unfold Memory.write
    split
    · simp
    · split
      · subst_vars; by_cases hc : c = b <;> simp [hc]
      · rename_i h1 h2
        simp only [Memory.read_cons, ih]
        by_cases hc : c = a
        · subst hc; simp [h2]
        · simp [hc]

@[simp] theorem Memory.read_write_same (m : Memory α) (a : Nat) (v : α) :
    Memory.read (Memory.write m a v) a = some v := by simp [Memory.read_write]

theorem Memory.read_write_other (m : Memory α) (a c : Nat) (v : α) (h : c ≠ a) :
    Memory.read (Memory.write m a v) c = Memory.read m c := by simp [Memory.read_write, h]

/-- Every entry after a write is the one written or was there before. -/
theorem Memory.mem_write {m : Memory α} {a : Nat} {v : α} {p : Nat × α} (h : p ∈ Memory.write m a v) :
    p = (a, v) ∨ p ∈ m := by
  induction m with
  | nil => simpa [Memory.write] using h
  | cons q m ih =>
    obtain ⟨b, x⟩ := q
    unfold Memory.write at h
    split at h
    · simpa using h
    · split at h
      · rcases List.mem_cons.1 h with h | h
        · exact .inl h
        · exact .inr (List.mem_cons_of_mem _ h)
      · rcases List.mem_cons.1 h with h | h
        · exact .inr (h ▸ List.mem_cons_self)
        · exact (ih h).imp_right (List.mem_cons_of_mem _)

/-- A write keeps the canonical form. -/
theorem Memory.write_wf {m : Memory α} (a : Nat) (v : α) (h : Memory.wf m) : Memory.wf (Memory.write m a v) := by
  induction m with
  | nil => simp [Memory.write, Memory.wf]
  | cons q m ih =>
    obtain ⟨b, x⟩ := q
    obtain ⟨hb, hm⟩ := List.pairwise_cons.1 h
    unfold Memory.write
    split
    · rename_i hab
      refine List.pairwise_cons.2 ⟨fun p hp => ?_, h⟩
      rcases List.mem_cons.1 hp with rfl | hp
      · exact hab
      · exact Nat.lt_trans hab (hb p hp)
    · split
      · rename_i hab
        subst hab
        exact List.pairwise_cons.2 ⟨hb, hm⟩
      · refine List.pairwise_cons.2 ⟨fun p hp => ?_, ih hm⟩
        rcases Memory.mem_write hp with rfl | hp
        · simp; omega
        · exact hb p hp

/-- A write inside a bound keeps every address inside it. -/
theorem Memory.write_within {m : Memory α} {n a : Nat} (v : α) (h : Memory.within n m) (ha : a < n) :
    Memory.within n (Memory.write m a v) := by
  intro p hp
  rcases Memory.mem_write hp with rfl | hp
  · exact ha
  · exact h p hp

/-- Two canonical storages that read alike are equal. -/
theorem Memory.ext_of_read {m n : Memory α} (hm : Memory.wf m) (hn : Memory.wf n)
    (h : ∀ a, Memory.read m a = Memory.read n a) : m = n := by
  induction m generalizing n with
  | nil =>
    cases n with
    | nil => rfl
    | cons q n => obtain ⟨b, x⟩ := q; simpa using h b
  | cons p m ih =>
    obtain ⟨a, v⟩ := p
    obtain ⟨ha, hm'⟩ := List.pairwise_cons.1 hm
    cases n with
    | nil => simpa using h a
    | cons q n =>
      obtain ⟨b, x⟩ := q
      obtain ⟨hb, hn'⟩ := List.pairwise_cons.1 hn
      have none_m : ∀ c, c ≤ a → Memory.read m c = none := fun c hc =>
        Memory.read_eq_none_of_lt m c (fun p hp => Nat.lt_of_le_of_lt hc (ha p hp))
      have none_n : ∀ c, c ≤ b → Memory.read n c = none := fun c hc =>
        Memory.read_eq_none_of_lt n c (fun p hp => Nat.lt_of_le_of_lt hc (hb p hp))
      have hab : a = b := by
        rcases Nat.lt_trichotomy a b with hlt | heq | hgt
        · have := h a
          rw [Memory.read_cons, if_pos rfl, Memory.read_cons, if_neg (by omega), none_n a (by omega)] at this
          cases this
        · exact heq
        · have := h b
          rw [Memory.read_cons, if_neg (by omega), none_m b (by omega), Memory.read_cons, if_pos rfl] at this
          cases this
      subst hab
      have hv := h a
      simp only [Memory.read_cons, if_pos] at hv
      cases hv
      rw [ih hm' hn' (fun c => ?_)]
      have hc := h c
      simp only [Memory.read_cons] at hc
      by_cases hca : c = a
      · subst hca; rw [none_m c (Nat.le_refl _), none_n c (Nat.le_refl _)]
      · simpa [hca] using hc

/-- SplitString keeps the canonical form. -/
theorem splitCommas_wf (a : Nat) (data : List Byte) {m : Memory Byte} (h : Memory.wf m) :
    Memory.wf (splitCommas a data m) := by
  induction data generalizing a m with
  | nil => exact h
  | cons c cs ih =>
    unfold splitCommas
    split
    · exact ih _ (Memory.write_wf _ _ h)
    · exact ih _ h

/-- SplitString of a payload inside a bound keeps every address inside it. -/
theorem splitCommas_within (a : Nat) (data : List Byte) {m : Memory Byte} {n : Nat} (h : Memory.within n m)
    (ha : a + data.length ≤ n) : Memory.within n (splitCommas a data m) := by
  induction data generalizing a m with
  | nil => exact h
  | cons c cs ih =>
    rw [List.length_cons] at ha
    unfold splitCommas
    split
    · exact ih _ (Memory.write_within _ h (by omega)) (by omega)
    · exact ih _ h (by omega)

/-- What SplitString leaves at an address: the sentinel where the payload had a comma, else what was there (R184). -/
theorem splitCommas_read (a : Nat) (data : List Byte) (m : Memory Byte) (c : Nat) :
    Memory.read (splitCommas a data m) c =
      if a ≤ c ∧ data[c - a]? = some chComma then some sentinel else Memory.read m c := by
  induction data generalizing a m with
  | nil => simp [splitCommas]
  | cons b bs ih =>
    rw [splitCommas, ih]
    by_cases hac : c = a
    · subst hac
      by_cases hb : b = chComma
      · simp [hb]
      · rw [if_neg hb, if_neg (by omega), if_neg]
        simpa using hb
    · have hrd : Memory.read (if b = chComma then Memory.write m a sentinel else m) c = Memory.read m c := by
        split
        · exact Memory.read_write_other _ _ _ _ hac
        · rfl
      rw [hrd]
      by_cases hle : a + 1 ≤ c
      · have e : c - a = (c - (a + 1)) + 1 := by omega
        have h1 : a ≤ c := by omega
        simp [e, hle, h1]
      · have h2 : ¬ a ≤ c := by omega
        simp [hle, h2]

end Sys2Proof.Machine
end

