-- ==== Sys2Proof/Laws/State.lean ====
section
/-! SUPPORT. What each update of the state leaves in each field: one lemma per field per update. -/

namespace Sys2Proof.Machine

@[simp] theorem State.raise_cfg (s : State) (e : Event) : (s.raise e).cfg = s.cfg := rfl
@[simp] theorem State.raise_rx (s : State) (e : Event) : (s.raise e).rx = s.rx := rfl
@[simp] theorem State.raise_fq (s : State) (e : Event) : (s.raise e).fq = s.fq := rfl
@[simp] theorem State.raise_tx (s : State) (e : Event) : (s.raise e).tx = s.tx := rfl
@[simp] theorem State.raise_scr (s : State) (e : Event) : (s.raise e).scr = s.scr := rfl
@[simp] theorem State.raise_pstate (s : State) (e : Event) : (s.raise e).pstate = s.pstate := rfl
@[simp] theorem State.raise_w (s : State) (e : Event) : (s.raise e).w = s.w := rfl
@[simp] theorem State.raise_pathStart (s : State) (e : Event) : (s.raise e).pathStart = s.pathStart := rfl
@[simp] theorem State.raise_pathLen (s : State) (e : Event) : (s.raise e).pathLen = s.pathLen := rfl
@[simp] theorem State.raise_dataStart (s : State) (e : Event) : (s.raise e).dataStart = s.dataStart := rfl
@[simp] theorem State.raise_dataLen (s : State) (e : Event) : (s.raise e).dataLen = s.dataLen := rfl
@[simp] theorem State.raise_ncb (s : State) (e : Event) : (s.raise e).ncb = s.ncb := rfl
@[simp] theorem State.raise_pollActive (s : State) (e : Event) : (s.raise e).pollActive = s.pollActive := rfl
@[simp] theorem State.raise_encRem (s : State) (e : Event) : (s.raise e).encRem = s.encRem := rfl
@[simp] theorem State.raise_scrGen (s : State) (e : Event) : (s.raise e).scrGen = s.scrGen := rfl
@[simp] theorem State.raise_encSent (s : State) (e : Event) : (s.raise e).encSent = s.encSent := rfl
@[simp] theorem State.raise_scan (s : State) (e : Event) : (s.raise e).scan = s.scan := rfl
@[simp] theorem State.raise_draws (s : State) (e : Event) : (s.raise e).draws = s.draws := rfl
@[simp] theorem State.raise_sched (s : State) (e : Event) : (s.raise e).sched = s.sched := rfl
@[simp] theorem State.raise_events (s : State) (e : Event) : (s.raise e).events = s.events ++ [e] := rfl
@[simp] theorem State.raise_outs (s : State) (e : Event) : (s.raise e).outs = s.outs := rfl

@[simp] theorem State.emitOut_cfg (s : State) (o : Out) : (s.emitOut o).cfg = s.cfg := rfl
@[simp] theorem State.emitOut_rx (s : State) (o : Out) : (s.emitOut o).rx = s.rx := rfl
@[simp] theorem State.emitOut_fq (s : State) (o : Out) : (s.emitOut o).fq = s.fq := rfl
@[simp] theorem State.emitOut_tx (s : State) (o : Out) : (s.emitOut o).tx = s.tx := rfl
@[simp] theorem State.emitOut_scr (s : State) (o : Out) : (s.emitOut o).scr = s.scr := rfl
@[simp] theorem State.emitOut_pstate (s : State) (o : Out) : (s.emitOut o).pstate = s.pstate := rfl
@[simp] theorem State.emitOut_w (s : State) (o : Out) : (s.emitOut o).w = s.w := rfl
@[simp] theorem State.emitOut_pathStart (s : State) (o : Out) : (s.emitOut o).pathStart = s.pathStart := rfl
@[simp] theorem State.emitOut_pathLen (s : State) (o : Out) : (s.emitOut o).pathLen = s.pathLen := rfl
@[simp] theorem State.emitOut_dataStart (s : State) (o : Out) : (s.emitOut o).dataStart = s.dataStart := rfl
@[simp] theorem State.emitOut_dataLen (s : State) (o : Out) : (s.emitOut o).dataLen = s.dataLen := rfl
@[simp] theorem State.emitOut_ncb (s : State) (o : Out) : (s.emitOut o).ncb = s.ncb := rfl
@[simp] theorem State.emitOut_pollActive (s : State) (o : Out) : (s.emitOut o).pollActive = s.pollActive := rfl
@[simp] theorem State.emitOut_encRem (s : State) (o : Out) : (s.emitOut o).encRem = s.encRem := rfl
@[simp] theorem State.emitOut_scrGen (s : State) (o : Out) : (s.emitOut o).scrGen = s.scrGen := rfl
@[simp] theorem State.emitOut_encSent (s : State) (o : Out) : (s.emitOut o).encSent = s.encSent := rfl
@[simp] theorem State.emitOut_scan (s : State) (o : Out) : (s.emitOut o).scan = s.scan := rfl
@[simp] theorem State.emitOut_draws (s : State) (o : Out) : (s.emitOut o).draws = s.draws := rfl
@[simp] theorem State.emitOut_sched (s : State) (o : Out) : (s.emitOut o).sched = s.sched := rfl
@[simp] theorem State.emitOut_events (s : State) (o : Out) : (s.emitOut o).events = s.events := rfl
@[simp] theorem State.emitOut_outs (s : State) (o : Out) : (s.emitOut o).outs = s.outs ++ [o] := rfl

@[simp] theorem State.done_cfg (s : State) (ok : Bool) : (s.done ok).cfg = s.cfg := rfl
@[simp] theorem State.done_rx (s : State) (ok : Bool) : (s.done ok).rx = s.rx := rfl
@[simp] theorem State.done_fq (s : State) (ok : Bool) : (s.done ok).fq = s.fq := rfl
@[simp] theorem State.done_tx (s : State) (ok : Bool) : (s.done ok).tx = s.tx := rfl
@[simp] theorem State.done_scr (s : State) (ok : Bool) : (s.done ok).scr = s.scr := rfl
@[simp] theorem State.done_pstate (s : State) (ok : Bool) : (s.done ok).pstate = s.pstate := rfl
@[simp] theorem State.done_w (s : State) (ok : Bool) : (s.done ok).w = s.w := rfl
@[simp] theorem State.done_pathStart (s : State) (ok : Bool) : (s.done ok).pathStart = s.pathStart := rfl
@[simp] theorem State.done_pathLen (s : State) (ok : Bool) : (s.done ok).pathLen = s.pathLen := rfl
@[simp] theorem State.done_dataStart (s : State) (ok : Bool) : (s.done ok).dataStart = s.dataStart := rfl
@[simp] theorem State.done_dataLen (s : State) (ok : Bool) : (s.done ok).dataLen = s.dataLen := rfl
@[simp] theorem State.done_ncb (s : State) (ok : Bool) : (s.done ok).ncb = s.ncb := rfl
@[simp] theorem State.done_pollActive (s : State) (ok : Bool) : (s.done ok).pollActive = s.pollActive := rfl
@[simp] theorem State.done_encRem (s : State) (ok : Bool) : (s.done ok).encRem = s.encRem := rfl
@[simp] theorem State.done_scrGen (s : State) (ok : Bool) : (s.done ok).scrGen = s.scrGen := rfl
@[simp] theorem State.done_encSent (s : State) (ok : Bool) : (s.done ok).encSent = s.encSent := rfl
@[simp] theorem State.done_scan (s : State) (ok : Bool) : (s.done ok).scan = s.scan := rfl
@[simp] theorem State.done_draws (s : State) (ok : Bool) : (s.done ok).draws = s.draws := rfl
@[simp] theorem State.done_sched (s : State) (ok : Bool) : (s.done ok).sched = s.sched := rfl
@[simp] theorem State.done_events (s : State) (ok : Bool) : (s.done ok).events = s.events := rfl
@[simp] theorem State.done_outs (s : State) (ok : Bool) : (s.done ok).outs = s.outs ++ [.cmdDone ok] := rfl

@[simp] theorem State.writeScr_cfg (s : State) (a : Nat) (b : Byte) : (s.writeScr a b).cfg = s.cfg := rfl
@[simp] theorem State.writeScr_rx (s : State) (a : Nat) (b : Byte) : (s.writeScr a b).rx = s.rx := rfl
@[simp] theorem State.writeScr_fq (s : State) (a : Nat) (b : Byte) : (s.writeScr a b).fq = s.fq := rfl
@[simp] theorem State.writeScr_tx (s : State) (a : Nat) (b : Byte) : (s.writeScr a b).tx = s.tx := rfl
@[simp] theorem State.writeScr_scr (s : State) (a : Nat) (b : Byte) : (s.writeScr a b).scr = s.scr.write a b := rfl
@[simp] theorem State.writeScr_pstate (s : State) (a : Nat) (b : Byte) : (s.writeScr a b).pstate = s.pstate := rfl
@[simp] theorem State.writeScr_w (s : State) (a : Nat) (b : Byte) : (s.writeScr a b).w = s.w := rfl
@[simp] theorem State.writeScr_pathStart (s : State) (a : Nat) (b : Byte) : (s.writeScr a b).pathStart = s.pathStart := rfl
@[simp] theorem State.writeScr_pathLen (s : State) (a : Nat) (b : Byte) : (s.writeScr a b).pathLen = s.pathLen := rfl
@[simp] theorem State.writeScr_dataStart (s : State) (a : Nat) (b : Byte) : (s.writeScr a b).dataStart = s.dataStart := rfl
@[simp] theorem State.writeScr_dataLen (s : State) (a : Nat) (b : Byte) : (s.writeScr a b).dataLen = s.dataLen := rfl
@[simp] theorem State.writeScr_ncb (s : State) (a : Nat) (b : Byte) : (s.writeScr a b).ncb = s.ncb := rfl
@[simp] theorem State.writeScr_pollActive (s : State) (a : Nat) (b : Byte) : (s.writeScr a b).pollActive = s.pollActive := rfl
@[simp] theorem State.writeScr_encRem (s : State) (a : Nat) (b : Byte) : (s.writeScr a b).encRem = s.encRem := rfl
@[simp] theorem State.writeScr_scrGen (s : State) (a : Nat) (b : Byte) : (s.writeScr a b).scrGen = s.scrGen := rfl
@[simp] theorem State.writeScr_encSent (s : State) (a : Nat) (b : Byte) : (s.writeScr a b).encSent = s.encSent := rfl
@[simp] theorem State.writeScr_scan (s : State) (a : Nat) (b : Byte) : (s.writeScr a b).scan = s.scan := rfl
@[simp] theorem State.writeScr_draws (s : State) (a : Nat) (b : Byte) : (s.writeScr a b).draws = s.draws := rfl
@[simp] theorem State.writeScr_sched (s : State) (a : Nat) (b : Byte) : (s.writeScr a b).sched = s.sched := rfl
@[simp] theorem State.writeScr_events (s : State) (a : Nat) (b : Byte) : (s.writeScr a b).events = s.events := rfl
@[simp] theorem State.writeScr_outs (s : State) (a : Nat) (b : Byte) : (s.writeScr a b).outs = s.outs := rfl

@[simp] theorem State.resetIdx_cfg (s : State) : s.resetIdx.cfg = s.cfg := rfl
@[simp] theorem State.resetIdx_rx (s : State) : s.resetIdx.rx = s.rx := rfl
@[simp] theorem State.resetIdx_fq (s : State) : s.resetIdx.fq = s.fq := rfl
@[simp] theorem State.resetIdx_tx (s : State) : s.resetIdx.tx = s.tx := rfl
@[simp] theorem State.resetIdx_scr (s : State) : s.resetIdx.scr = s.scr := rfl
@[simp] theorem State.resetIdx_pstate (s : State) : s.resetIdx.pstate = s.pstate := rfl
@[simp] theorem State.resetIdx_w (s : State) : s.resetIdx.w = 0 := rfl
@[simp] theorem State.resetIdx_pathStart (s : State) : s.resetIdx.pathStart = 0 := rfl
@[simp] theorem State.resetIdx_pathLen (s : State) : s.resetIdx.pathLen = 0 := rfl
@[simp] theorem State.resetIdx_dataStart (s : State) : s.resetIdx.dataStart = 0 := rfl
@[simp] theorem State.resetIdx_dataLen (s : State) : s.resetIdx.dataLen = 0 := rfl
@[simp] theorem State.resetIdx_ncb (s : State) : s.resetIdx.ncb = s.ncb := rfl
@[simp] theorem State.resetIdx_pollActive (s : State) : s.resetIdx.pollActive = s.pollActive := rfl
@[simp] theorem State.resetIdx_encRem (s : State) : s.resetIdx.encRem = s.encRem := rfl
@[simp] theorem State.resetIdx_scrGen (s : State) : s.resetIdx.scrGen = s.scrGen := rfl
@[simp] theorem State.resetIdx_encSent (s : State) : s.resetIdx.encSent = s.encSent := rfl
@[simp] theorem State.resetIdx_scan (s : State) : s.resetIdx.scan = s.scan := rfl
@[simp] theorem State.resetIdx_draws (s : State) : s.resetIdx.draws = s.draws := rfl
@[simp] theorem State.resetIdx_sched (s : State) : s.resetIdx.sched = s.sched := rfl
@[simp] theorem State.resetIdx_events (s : State) : s.resetIdx.events = s.events := rfl
@[simp] theorem State.resetIdx_outs (s : State) : s.resetIdx.outs = s.outs := rfl

@[simp] theorem State.enterError_cfg (s : State) (e : Event) : (s.enterError e).cfg = s.cfg := rfl
@[simp] theorem State.enterError_rx (s : State) (e : Event) : (s.enterError e).rx = s.rx := rfl
@[simp] theorem State.enterError_fq (s : State) (e : Event) : (s.enterError e).fq = s.fq := rfl
@[simp] theorem State.enterError_tx (s : State) (e : Event) : (s.enterError e).tx = s.tx := rfl
@[simp] theorem State.enterError_scr (s : State) (e : Event) : (s.enterError e).scr = s.scr := rfl
@[simp] theorem State.enterError_pstate (s : State) (e : Event) : (s.enterError e).pstate = .error := rfl
@[simp] theorem State.enterError_w (s : State) (e : Event) : (s.enterError e).w = s.w := rfl
@[simp] theorem State.enterError_pathStart (s : State) (e : Event) : (s.enterError e).pathStart = s.pathStart := rfl
@[simp] theorem State.enterError_pathLen (s : State) (e : Event) : (s.enterError e).pathLen = s.pathLen := rfl
@[simp] theorem State.enterError_dataStart (s : State) (e : Event) : (s.enterError e).dataStart = s.dataStart := rfl
@[simp] theorem State.enterError_dataLen (s : State) (e : Event) : (s.enterError e).dataLen = s.dataLen := rfl
@[simp] theorem State.enterError_ncb (s : State) (e : Event) : (s.enterError e).ncb = s.ncb := rfl
@[simp] theorem State.enterError_pollActive (s : State) (e : Event) : (s.enterError e).pollActive = s.pollActive := rfl
@[simp] theorem State.enterError_encRem (s : State) (e : Event) : (s.enterError e).encRem = s.encRem := rfl
@[simp] theorem State.enterError_scrGen (s : State) (e : Event) : (s.enterError e).scrGen = s.scrGen := rfl
@[simp] theorem State.enterError_encSent (s : State) (e : Event) : (s.enterError e).encSent = s.encSent := rfl
@[simp] theorem State.enterError_scan (s : State) (e : Event) : (s.enterError e).scan = s.scan := rfl
@[simp] theorem State.enterError_draws (s : State) (e : Event) : (s.enterError e).draws = s.draws := rfl
@[simp] theorem State.enterError_sched (s : State) (e : Event) : (s.enterError e).sched = s.sched := rfl
@[simp] theorem State.enterError_events (s : State) (e : Event) : (s.enterError e).events = s.events ++ [e] := rfl
@[simp] theorem State.enterError_outs (s : State) (e : Event) : (s.enterError e).outs = s.outs := rfl

@[simp] theorem State.beginFrame_cfg (s : State) : s.beginFrame.cfg = s.cfg := rfl
@[simp] theorem State.beginFrame_rx (s : State) : s.beginFrame.rx = s.rx := rfl
@[simp] theorem State.beginFrame_fq (s : State) : s.beginFrame.fq = s.fq := rfl
@[simp] theorem State.beginFrame_tx (s : State) : s.beginFrame.tx = s.tx := rfl
@[simp] theorem State.beginFrame_scr (s : State) : s.beginFrame.scr = s.scr := rfl
@[simp] theorem State.beginFrame_pstate (s : State) : s.beginFrame.pstate = .waitP := rfl
@[simp] theorem State.beginFrame_w (s : State) : s.beginFrame.w = 0 := rfl
@[simp] theorem State.beginFrame_pathStart (s : State) : s.beginFrame.pathStart = 0 := rfl
@[simp] theorem State.beginFrame_pathLen (s : State) : s.beginFrame.pathLen = 0 := rfl
@[simp] theorem State.beginFrame_dataStart (s : State) : s.beginFrame.dataStart = 0 := rfl
@[simp] theorem State.beginFrame_dataLen (s : State) : s.beginFrame.dataLen = 0 := rfl
@[simp] theorem State.beginFrame_ncb (s : State) : s.beginFrame.ncb = s.ncb := rfl
@[simp] theorem State.beginFrame_pollActive (s : State) : s.beginFrame.pollActive = s.pollActive := rfl
@[simp] theorem State.beginFrame_encRem (s : State) : s.beginFrame.encRem = s.encRem := rfl
@[simp] theorem State.beginFrame_scrGen (s : State) : s.beginFrame.scrGen = s.scrGen + 1 := rfl
@[simp] theorem State.beginFrame_encSent (s : State) : s.beginFrame.encSent = s.encSent := rfl
@[simp] theorem State.beginFrame_scan (s : State) : s.beginFrame.scan = s.scan := rfl
@[simp] theorem State.beginFrame_draws (s : State) : s.beginFrame.draws = s.draws := rfl
@[simp] theorem State.beginFrame_sched (s : State) : s.beginFrame.sched = s.sched := rfl
@[simp] theorem State.beginFrame_events (s : State) : s.beginFrame.events = s.events := rfl
@[simp] theorem State.beginFrame_outs (s : State) : s.beginFrame.outs = s.outs := rfl

@[simp] theorem State.append_cfg (s : State) (c : Byte) : (s.append c).cfg = s.cfg := rfl
@[simp] theorem State.append_rx (s : State) (c : Byte) : (s.append c).rx = s.rx := rfl
@[simp] theorem State.append_fq (s : State) (c : Byte) : (s.append c).fq = s.fq := rfl
@[simp] theorem State.append_tx (s : State) (c : Byte) : (s.append c).tx = s.tx := rfl
@[simp] theorem State.append_scr (s : State) (c : Byte) : (s.append c).scr = s.scr.write s.w c := rfl
@[simp] theorem State.append_pstate (s : State) (c : Byte) : (s.append c).pstate = s.pstate := rfl
@[simp] theorem State.append_w (s : State) (c : Byte) : (s.append c).w = s.w + 1 := rfl
@[simp] theorem State.append_pathStart (s : State) (c : Byte) : (s.append c).pathStart = s.pathStart := rfl
@[simp] theorem State.append_pathLen (s : State) (c : Byte) : (s.append c).pathLen = s.pathLen := rfl
@[simp] theorem State.append_dataStart (s : State) (c : Byte) : (s.append c).dataStart = s.dataStart := rfl
@[simp] theorem State.append_dataLen (s : State) (c : Byte) : (s.append c).dataLen = s.dataLen := rfl
@[simp] theorem State.append_ncb (s : State) (c : Byte) : (s.append c).ncb = s.ncb := rfl
@[simp] theorem State.append_pollActive (s : State) (c : Byte) : (s.append c).pollActive = s.pollActive := rfl
@[simp] theorem State.append_encRem (s : State) (c : Byte) : (s.append c).encRem = s.encRem := rfl
@[simp] theorem State.append_scrGen (s : State) (c : Byte) : (s.append c).scrGen = s.scrGen := rfl
@[simp] theorem State.append_encSent (s : State) (c : Byte) : (s.append c).encSent = s.encSent := rfl
@[simp] theorem State.append_scan (s : State) (c : Byte) : (s.append c).scan = s.scan := rfl
@[simp] theorem State.append_draws (s : State) (c : Byte) : (s.append c).draws = s.draws := rfl
@[simp] theorem State.append_sched (s : State) (c : Byte) : (s.append c).sched = s.sched := rfl
@[simp] theorem State.append_events (s : State) (c : Byte) : (s.append c).events = s.events := rfl
@[simp] theorem State.append_outs (s : State) (c : Byte) : (s.append c).outs = s.outs := rfl

@[simp] theorem State.startFrame_cfg (s : State) (frame : List Byte) : (s.startFrame frame).cfg = s.cfg := rfl
@[simp] theorem State.startFrame_rx (s : State) (frame : List Byte) : (s.startFrame frame).rx = s.rx := rfl
@[simp] theorem State.startFrame_fq (s : State) (frame : List Byte) : (s.startFrame frame).fq = s.fq := rfl
@[simp] theorem State.startFrame_tx (s : State) (frame : List Byte) : (s.startFrame frame).tx = s.tx := rfl
@[simp] theorem State.startFrame_scr (s : State) (frame : List Byte) : (s.startFrame frame).scr = s.scr := rfl
@[simp] theorem State.startFrame_pstate (s : State) (frame : List Byte) : (s.startFrame frame).pstate = s.pstate := rfl
@[simp] theorem State.startFrame_w (s : State) (frame : List Byte) : (s.startFrame frame).w = s.w := rfl
@[simp] theorem State.startFrame_pathStart (s : State) (frame : List Byte) : (s.startFrame frame).pathStart = s.pathStart := rfl
@[simp] theorem State.startFrame_pathLen (s : State) (frame : List Byte) : (s.startFrame frame).pathLen = s.pathLen := rfl
@[simp] theorem State.startFrame_dataStart (s : State) (frame : List Byte) : (s.startFrame frame).dataStart = s.dataStart := rfl
@[simp] theorem State.startFrame_dataLen (s : State) (frame : List Byte) : (s.startFrame frame).dataLen = s.dataLen := rfl
@[simp] theorem State.startFrame_ncb (s : State) (frame : List Byte) : (s.startFrame frame).ncb = s.ncb := rfl
@[simp] theorem State.startFrame_pollActive (s : State) (frame : List Byte) : (s.startFrame frame).pollActive = s.pollActive := rfl
@[simp] theorem State.startFrame_encRem (s : State) (frame : List Byte) : (s.startFrame frame).encRem = frame := rfl
@[simp] theorem State.startFrame_scrGen (s : State) (frame : List Byte) : (s.startFrame frame).scrGen = s.scrGen := rfl
@[simp] theorem State.startFrame_encSent (s : State) (frame : List Byte) : (s.startFrame frame).encSent = 0 := rfl
@[simp] theorem State.startFrame_scan (s : State) (frame : List Byte) : (s.startFrame frame).scan = s.scan := rfl
@[simp] theorem State.startFrame_draws (s : State) (frame : List Byte) : (s.startFrame frame).draws = s.draws := rfl
@[simp] theorem State.startFrame_sched (s : State) (frame : List Byte) : (s.startFrame frame).sched = s.sched := rfl
@[simp] theorem State.startFrame_events (s : State) (frame : List Byte) : (s.startFrame frame).events = s.events := rfl
@[simp] theorem State.startFrame_outs (s : State) (frame : List Byte) : (s.startFrame frame).outs = s.outs := rfl

@[simp] theorem State.scanClass_cfg (s : State) (k : ByteClass) : (s.scanClass k).cfg = s.cfg := rfl
@[simp] theorem State.scanClass_rx (s : State) (k : ByteClass) : (s.scanClass k).rx = s.rx := rfl
@[simp] theorem State.scanClass_fq (s : State) (k : ByteClass) : (s.scanClass k).fq = s.fq := rfl
@[simp] theorem State.scanClass_tx (s : State) (k : ByteClass) : (s.scanClass k).tx = s.tx := rfl
@[simp] theorem State.scanClass_scr (s : State) (k : ByteClass) : (s.scanClass k).scr = s.scr := rfl
@[simp] theorem State.scanClass_pstate (s : State) (k : ByteClass) : (s.scanClass k).pstate = s.pstate := rfl
@[simp] theorem State.scanClass_w (s : State) (k : ByteClass) : (s.scanClass k).w = s.w := rfl
@[simp] theorem State.scanClass_pathStart (s : State) (k : ByteClass) : (s.scanClass k).pathStart = s.pathStart := rfl
@[simp] theorem State.scanClass_pathLen (s : State) (k : ByteClass) : (s.scanClass k).pathLen = s.pathLen := rfl
@[simp] theorem State.scanClass_dataStart (s : State) (k : ByteClass) : (s.scanClass k).dataStart = s.dataStart := rfl
@[simp] theorem State.scanClass_dataLen (s : State) (k : ByteClass) : (s.scanClass k).dataLen = s.dataLen := rfl
@[simp] theorem State.scanClass_ncb (s : State) (k : ByteClass) : (s.scanClass k).ncb = s.ncb := rfl
@[simp] theorem State.scanClass_pollActive (s : State) (k : ByteClass) : (s.scanClass k).pollActive = s.pollActive := rfl
@[simp] theorem State.scanClass_encRem (s : State) (k : ByteClass) : (s.scanClass k).encRem = s.encRem := rfl
@[simp] theorem State.scanClass_scrGen (s : State) (k : ByteClass) : (s.scanClass k).scrGen = s.scrGen := rfl
@[simp] theorem State.scanClass_encSent (s : State) (k : ByteClass) : (s.scanClass k).encSent = s.encSent := rfl
@[simp] theorem State.scanClass_scan (s : State) (k : ByteClass) : (s.scanClass k).scan = s.scan.add k := rfl
@[simp] theorem State.scanClass_draws (s : State) (k : ByteClass) : (s.scanClass k).draws = s.draws := rfl
@[simp] theorem State.scanClass_sched (s : State) (k : ByteClass) : (s.scanClass k).sched = s.sched := rfl
@[simp] theorem State.scanClass_events (s : State) (k : ByteClass) : (s.scanClass k).events = s.events := rfl
@[simp] theorem State.scanClass_outs (s : State) (k : ByteClass) : (s.scanClass k).outs = s.outs := rfl

@[simp] theorem State.endData_cfg (s : State) : s.endData.cfg = s.cfg := rfl
@[simp] theorem State.endData_rx (s : State) : s.endData.rx = s.rx := rfl
@[simp] theorem State.endData_fq (s : State) : s.endData.fq = s.fq := rfl
@[simp] theorem State.endData_tx (s : State) : s.endData.tx = s.tx := rfl
@[simp] theorem State.endData_scr (s : State) : s.endData.scr = s.scr.write s.w sentinel := rfl
@[simp] theorem State.endData_pstate (s : State) : s.endData.pstate = s.pstate := rfl
@[simp] theorem State.endData_w (s : State) : s.endData.w = s.w + 1 := rfl
@[simp] theorem State.endData_pathStart (s : State) : s.endData.pathStart = s.pathStart := rfl
@[simp] theorem State.endData_pathLen (s : State) : s.endData.pathLen = s.pathLen := rfl
@[simp] theorem State.endData_dataStart (s : State) : s.endData.dataStart = s.dataStart := rfl
@[simp] theorem State.endData_dataLen (s : State) : s.endData.dataLen = s.w - s.dataStart := rfl
@[simp] theorem State.endData_ncb (s : State) : s.endData.ncb = s.ncb := rfl
@[simp] theorem State.endData_pollActive (s : State) : s.endData.pollActive = s.pollActive := rfl
@[simp] theorem State.endData_encRem (s : State) : s.endData.encRem = s.encRem := rfl
@[simp] theorem State.endData_scrGen (s : State) : s.endData.scrGen = s.scrGen := rfl
@[simp] theorem State.endData_encSent (s : State) : s.endData.encSent = s.encSent := rfl
@[simp] theorem State.endData_scan (s : State) : s.endData.scan = s.scan := rfl
@[simp] theorem State.endData_draws (s : State) : s.endData.draws = s.draws := rfl
@[simp] theorem State.endData_sched (s : State) : s.endData.sched = s.sched := rfl
@[simp] theorem State.endData_events (s : State) : s.endData.events = s.events := rfl
@[simp] theorem State.endData_outs (s : State) : s.endData.outs = s.outs := rfl

@[simp] theorem State.callHandler_cfg (s : State) (r : Nat × Route) (t : PType) (vals : List Val) : (s.callHandler r t vals).cfg = s.cfg := rfl
@[simp] theorem State.callHandler_rx (s : State) (r : Nat × Route) (t : PType) (vals : List Val) : (s.callHandler r t vals).rx = s.rx := rfl
@[simp] theorem State.callHandler_fq (s : State) (r : Nat × Route) (t : PType) (vals : List Val) : (s.callHandler r t vals).fq = s.fq := rfl
@[simp] theorem State.callHandler_tx (s : State) (r : Nat × Route) (t : PType) (vals : List Val) : (s.callHandler r t vals).tx = s.tx := rfl
@[simp] theorem State.callHandler_scr (s : State) (r : Nat × Route) (t : PType) (vals : List Val) : (s.callHandler r t vals).scr = s.scr := rfl
@[simp] theorem State.callHandler_pstate (s : State) (r : Nat × Route) (t : PType) (vals : List Val) : (s.callHandler r t vals).pstate = s.pstate := rfl
@[simp] theorem State.callHandler_w (s : State) (r : Nat × Route) (t : PType) (vals : List Val) : (s.callHandler r t vals).w = s.w := rfl
@[simp] theorem State.callHandler_pathStart (s : State) (r : Nat × Route) (t : PType) (vals : List Val) : (s.callHandler r t vals).pathStart = s.pathStart := rfl
@[simp] theorem State.callHandler_pathLen (s : State) (r : Nat × Route) (t : PType) (vals : List Val) : (s.callHandler r t vals).pathLen = s.pathLen := rfl
@[simp] theorem State.callHandler_dataStart (s : State) (r : Nat × Route) (t : PType) (vals : List Val) : (s.callHandler r t vals).dataStart = s.dataStart := rfl
@[simp] theorem State.callHandler_dataLen (s : State) (r : Nat × Route) (t : PType) (vals : List Val) : (s.callHandler r t vals).dataLen = s.dataLen := rfl
@[simp] theorem State.callHandler_ncb (s : State) (r : Nat × Route) (t : PType) (vals : List Val) : (s.callHandler r t vals).ncb = s.ncb := rfl
@[simp] theorem State.callHandler_pollActive (s : State) (r : Nat × Route) (t : PType) (vals : List Val) : (s.callHandler r t vals).pollActive = s.pollActive := rfl
@[simp] theorem State.callHandler_encRem (s : State) (r : Nat × Route) (t : PType) (vals : List Val) : (s.callHandler r t vals).encRem = s.encRem := rfl
@[simp] theorem State.callHandler_scrGen (s : State) (r : Nat × Route) (t : PType) (vals : List Val) : (s.callHandler r t vals).scrGen = s.scrGen := rfl
@[simp] theorem State.callHandler_encSent (s : State) (r : Nat × Route) (t : PType) (vals : List Val) : (s.callHandler r t vals).encSent = s.encSent := rfl
@[simp] theorem State.callHandler_scan (s : State) (r : Nat × Route) (t : PType) (vals : List Val) : (s.callHandler r t vals).scan = s.scan := rfl
@[simp] theorem State.callHandler_draws (s : State) (r : Nat × Route) (t : PType) (vals : List Val) : (s.callHandler r t vals).draws = s.draws := rfl
@[simp] theorem State.callHandler_sched (s : State) (r : Nat × Route) (t : PType) (vals : List Val) : (s.callHandler r t vals).sched = s.sched := rfl
@[simp] theorem State.callHandler_events (s : State) (r : Nat × Route) (t : PType) (vals : List Val) : (s.callHandler r t vals).events = s.events := rfl
@[simp] theorem State.callHandler_outs (s : State) (r : Nat × Route) (t : PType) (vals : List Val) : (s.callHandler r t vals).outs = s.outs ++ [.call ⟨r.1, r.2.handler, t, vals.length, vals⟩] := rfl

@[simp] theorem State.reserved_cfg (s : State) (op : BitVec 4) : (s.reserved op).cfg = s.cfg := rfl
@[simp] theorem State.reserved_rx (s : State) (op : BitVec 4) : (s.reserved op).rx = s.rx := rfl
@[simp] theorem State.reserved_fq (s : State) (op : BitVec 4) : (s.reserved op).fq = s.fq := rfl
@[simp] theorem State.reserved_tx (s : State) (op : BitVec 4) : (s.reserved op).tx = s.tx := rfl
@[simp] theorem State.reserved_scr (s : State) (op : BitVec 4) : (s.reserved op).scr = s.scr := rfl
@[simp] theorem State.reserved_pstate (s : State) (op : BitVec 4) : (s.reserved op).pstate = s.pstate := rfl
@[simp] theorem State.reserved_w (s : State) (op : BitVec 4) : (s.reserved op).w = s.w := rfl
@[simp] theorem State.reserved_pathStart (s : State) (op : BitVec 4) : (s.reserved op).pathStart = s.pathStart := rfl
@[simp] theorem State.reserved_pathLen (s : State) (op : BitVec 4) : (s.reserved op).pathLen = s.pathLen := rfl
@[simp] theorem State.reserved_dataStart (s : State) (op : BitVec 4) : (s.reserved op).dataStart = s.dataStart := rfl
@[simp] theorem State.reserved_dataLen (s : State) (op : BitVec 4) : (s.reserved op).dataLen = s.dataLen := rfl
@[simp] theorem State.reserved_ncb (s : State) (op : BitVec 4) : (s.reserved op).ncb = s.ncb := rfl
@[simp] theorem State.reserved_pollActive (s : State) (op : BitVec 4) : (s.reserved op).pollActive = s.pollActive := rfl
@[simp] theorem State.reserved_encRem (s : State) (op : BitVec 4) : (s.reserved op).encRem = s.encRem := rfl
@[simp] theorem State.reserved_scrGen (s : State) (op : BitVec 4) : (s.reserved op).scrGen = s.scrGen := rfl
@[simp] theorem State.reserved_encSent (s : State) (op : BitVec 4) : (s.reserved op).encSent = s.encSent := rfl
@[simp] theorem State.reserved_scan (s : State) (op : BitVec 4) : (s.reserved op).scan = s.scan := rfl
@[simp] theorem State.reserved_draws (s : State) (op : BitVec 4) : (s.reserved op).draws = s.draws := rfl
@[simp] theorem State.reserved_sched (s : State) (op : BitVec 4) : (s.reserved op).sched = s.sched := rfl
@[simp] theorem State.reserved_events (s : State) (op : BitVec 4) : (s.reserved op).events = s.events ++ [.reservedOp op] := rfl
@[simp] theorem State.reserved_outs (s : State) (op : BitVec 4) : (s.reserved op).outs = s.outs ++ [.cmdDone false] := rfl

@[simp] theorem State.endPoll_cfg (s : State) : s.endPoll.cfg = s.cfg := rfl
@[simp] theorem State.endPoll_rx (s : State) : s.endPoll.rx = s.rx := rfl
@[simp] theorem State.endPoll_fq (s : State) : s.endPoll.fq = s.fq := rfl
@[simp] theorem State.endPoll_tx (s : State) : s.endPoll.tx = s.tx := rfl
@[simp] theorem State.endPoll_scr (s : State) : s.endPoll.scr = s.scr := rfl
@[simp] theorem State.endPoll_pstate (s : State) : s.endPoll.pstate = s.pstate := rfl
@[simp] theorem State.endPoll_w (s : State) : s.endPoll.w = s.w := rfl
@[simp] theorem State.endPoll_pathStart (s : State) : s.endPoll.pathStart = s.pathStart := rfl
@[simp] theorem State.endPoll_pathLen (s : State) : s.endPoll.pathLen = s.pathLen := rfl
@[simp] theorem State.endPoll_dataStart (s : State) : s.endPoll.dataStart = s.dataStart := rfl
@[simp] theorem State.endPoll_dataLen (s : State) : s.endPoll.dataLen = s.dataLen := rfl
@[simp] theorem State.endPoll_ncb (s : State) : s.endPoll.ncb = s.ncb := rfl
@[simp] theorem State.endPoll_pollActive (s : State) : s.endPoll.pollActive = false := rfl
@[simp] theorem State.endPoll_encRem (s : State) : s.endPoll.encRem = s.encRem := rfl
@[simp] theorem State.endPoll_scrGen (s : State) : s.endPoll.scrGen = s.scrGen := rfl
@[simp] theorem State.endPoll_encSent (s : State) : s.endPoll.encSent = s.encSent := rfl
@[simp] theorem State.endPoll_scan (s : State) : s.endPoll.scan = s.scan := rfl
@[simp] theorem State.endPoll_draws (s : State) : s.endPoll.draws = s.draws := rfl
@[simp] theorem State.endPoll_sched (s : State) : s.endPoll.sched = s.sched := rfl
@[simp] theorem State.endPoll_events (s : State) : s.endPoll.events = s.events := rfl
@[simp] theorem State.endPoll_outs (s : State) : s.endPoll.outs = s.outs ++ [.cmdDone true] := rfl

@[simp] theorem State.resetState_cfg (s : State) : s.resetState.cfg = s.cfg := rfl
@[simp] theorem State.resetState_rx (s : State) : s.resetState.rx = (State.resetWith s.cfg).rx := rfl
@[simp] theorem State.resetState_fq (s : State) : s.resetState.fq = (State.resetWith s.cfg).fq := rfl
@[simp] theorem State.resetState_tx (s : State) : s.resetState.tx = (State.resetWith s.cfg).tx := rfl
@[simp] theorem State.resetState_scr (s : State) : s.resetState.scr = (State.resetWith s.cfg).scr := rfl
@[simp] theorem State.resetState_pstate (s : State) : s.resetState.pstate = (State.resetWith s.cfg).pstate := rfl
@[simp] theorem State.resetState_w (s : State) : s.resetState.w = (State.resetWith s.cfg).w := rfl
@[simp] theorem State.resetState_pathStart (s : State) : s.resetState.pathStart = (State.resetWith s.cfg).pathStart := rfl
@[simp] theorem State.resetState_pathLen (s : State) : s.resetState.pathLen = (State.resetWith s.cfg).pathLen := rfl
@[simp] theorem State.resetState_dataStart (s : State) : s.resetState.dataStart = (State.resetWith s.cfg).dataStart := rfl
@[simp] theorem State.resetState_dataLen (s : State) : s.resetState.dataLen = (State.resetWith s.cfg).dataLen := rfl
@[simp] theorem State.resetState_ncb (s : State) : s.resetState.ncb = (State.resetWith s.cfg).ncb := rfl
@[simp] theorem State.resetState_pollActive (s : State) : s.resetState.pollActive = (State.resetWith s.cfg).pollActive := rfl
@[simp] theorem State.resetState_encRem (s : State) : s.resetState.encRem = (State.resetWith s.cfg).encRem := rfl
@[simp] theorem State.resetState_scrGen (s : State) : s.resetState.scrGen = (State.resetWith s.cfg).scrGen := rfl
@[simp] theorem State.resetState_encSent (s : State) : s.resetState.encSent = (State.resetWith s.cfg).encSent := rfl
@[simp] theorem State.resetState_scan (s : State) : s.resetState.scan = (State.resetWith s.cfg).scan := rfl
@[simp] theorem State.resetState_draws (s : State) : s.resetState.draws = s.draws := rfl
@[simp] theorem State.resetState_sched (s : State) : s.resetState.sched = s.sched := rfl
@[simp] theorem State.resetState_events (s : State) : s.resetState.events = s.events := rfl
@[simp] theorem State.resetState_outs (s : State) : s.resetState.outs = s.outs := rfl

@[simp] theorem State.resetWith_cfg (c : Config) : (State.resetWith c).cfg = c := rfl
@[simp] theorem State.resetWith_rx (c : Config) : (State.resetWith c).rx = Queue.empty Byte := rfl
@[simp] theorem State.resetWith_fq (c : Config) : (State.resetWith c).fq = Queue.empty View := rfl
@[simp] theorem State.resetWith_tx (c : Config) : (State.resetWith c).tx = Queue.empty Byte := rfl
@[simp] theorem State.resetWith_scr (c : Config) : (State.resetWith c).scr = [] := rfl
@[simp] theorem State.resetWith_pstate (c : Config) : (State.resetWith c).pstate = .waitStart := rfl
@[simp] theorem State.resetWith_w (c : Config) : (State.resetWith c).w = 0 := rfl
@[simp] theorem State.resetWith_pathStart (c : Config) : (State.resetWith c).pathStart = 0 := rfl
@[simp] theorem State.resetWith_pathLen (c : Config) : (State.resetWith c).pathLen = 0 := rfl
@[simp] theorem State.resetWith_dataStart (c : Config) : (State.resetWith c).dataStart = 0 := rfl
@[simp] theorem State.resetWith_dataLen (c : Config) : (State.resetWith c).dataLen = 0 := rfl
@[simp] theorem State.resetWith_ncb (c : Config) : (State.resetWith c).ncb = none := rfl
@[simp] theorem State.resetWith_pollActive (c : Config) : (State.resetWith c).pollActive = false := rfl
@[simp] theorem State.resetWith_encRem (c : Config) : (State.resetWith c).encRem = [] := rfl
@[simp] theorem State.resetWith_scrGen (c : Config) : (State.resetWith c).scrGen = 0 := rfl
@[simp] theorem State.resetWith_encSent (c : Config) : (State.resetWith c).encSent = 0 := rfl
@[simp] theorem State.resetWith_scan (c : Config) : (State.resetWith c).scan = Scan.start := rfl
@[simp] theorem State.resetWith_draws (c : Config) : (State.resetWith c).draws = 0 := rfl
@[simp] theorem State.resetWith_sched (c : Config) : (State.resetWith c).sched = [] := rfl
@[simp] theorem State.resetWith_events (c : Config) : (State.resetWith c).events = [] := rfl
@[simp] theorem State.resetWith_outs (c : Config) : (State.resetWith c).outs = [] := rfl

@[simp] theorem State.fire_cfg (s : State) : s.fire.cfg = s.cfg := by unfold State.fire; split <;> rfl
@[simp] theorem State.fire_rx (s : State) : s.fire.rx = s.rx := by unfold State.fire; split <;> rfl
@[simp] theorem State.fire_fq (s : State) : s.fire.fq = s.fq := by unfold State.fire; split <;> rfl
@[simp] theorem State.fire_tx (s : State) : s.fire.tx = s.tx := by unfold State.fire; split <;> rfl
@[simp] theorem State.fire_scr (s : State) : s.fire.scr = s.scr := by unfold State.fire; split <;> rfl
@[simp] theorem State.fire_pstate (s : State) : s.fire.pstate = s.pstate := by unfold State.fire; split <;> rfl
@[simp] theorem State.fire_w (s : State) : s.fire.w = s.w := by unfold State.fire; split <;> rfl
@[simp] theorem State.fire_pathStart (s : State) : s.fire.pathStart = s.pathStart := by unfold State.fire; split <;> rfl
@[simp] theorem State.fire_pathLen (s : State) : s.fire.pathLen = s.pathLen := by unfold State.fire; split <;> rfl
@[simp] theorem State.fire_dataStart (s : State) : s.fire.dataStart = s.dataStart := by unfold State.fire; split <;> rfl
@[simp] theorem State.fire_dataLen (s : State) : s.fire.dataLen = s.dataLen := by unfold State.fire; split <;> rfl
@[simp] theorem State.fire_ncb (s : State) : s.fire.ncb = s.ncb := by unfold State.fire; split <;> rfl
@[simp] theorem State.fire_pollActive (s : State) : s.fire.pollActive = s.pollActive := by unfold State.fire; split <;> rfl
@[simp] theorem State.fire_encRem (s : State) : s.fire.encRem = s.encRem := by unfold State.fire; split <;> rfl
@[simp] theorem State.fire_scrGen (s : State) : s.fire.scrGen = s.scrGen := by unfold State.fire; split <;> rfl
@[simp] theorem State.fire_encSent (s : State) : s.fire.encSent = s.encSent := by unfold State.fire; split <;> rfl
@[simp] theorem State.fire_scan (s : State) : s.fire.scan = s.scan := by unfold State.fire; split <;> rfl
@[simp] theorem State.fire_draws (s : State) : s.fire.draws = s.draws := by unfold State.fire; split <;> rfl
@[simp] theorem State.fire_sched (s : State) : s.fire.sched = s.sched := by unfold State.fire; split <;> rfl
@[simp] theorem State.fire_events (s : State) : s.fire.events = s.events := by unfold State.fire; split <;> rfl
@[simp] theorem State.fire_outs (s : State) :
    s.fire.outs = s.outs ++ (match s.ncb with | some id => [.notify id] | none => []) := by
  unfold State.fire; split <;> simp_all [State.emitOut]

@[simp] theorem State.noteTruncation_cfg (s : State) (n : Nat) : (s.noteTruncation n).cfg = s.cfg := by
  unfold State.noteTruncation; split <;> rfl
@[simp] theorem State.noteTruncation_rx (s : State) (n : Nat) : (s.noteTruncation n).rx = s.rx := by
  unfold State.noteTruncation; split <;> rfl
@[simp] theorem State.noteTruncation_fq (s : State) (n : Nat) : (s.noteTruncation n).fq = s.fq := by
  unfold State.noteTruncation; split <;> rfl
@[simp] theorem State.noteTruncation_tx (s : State) (n : Nat) : (s.noteTruncation n).tx = s.tx := by
  unfold State.noteTruncation; split <;> rfl
@[simp] theorem State.noteTruncation_scr (s : State) (n : Nat) : (s.noteTruncation n).scr = s.scr := by
  unfold State.noteTruncation; split <;> rfl
@[simp] theorem State.noteTruncation_pstate (s : State) (n : Nat) : (s.noteTruncation n).pstate = s.pstate := by
  unfold State.noteTruncation; split <;> rfl
@[simp] theorem State.noteTruncation_w (s : State) (n : Nat) : (s.noteTruncation n).w = s.w := by
  unfold State.noteTruncation; split <;> rfl
@[simp] theorem State.noteTruncation_pathStart (s : State) (n : Nat) : (s.noteTruncation n).pathStart = s.pathStart := by
  unfold State.noteTruncation; split <;> rfl
@[simp] theorem State.noteTruncation_pathLen (s : State) (n : Nat) : (s.noteTruncation n).pathLen = s.pathLen := by
  unfold State.noteTruncation; split <;> rfl
@[simp] theorem State.noteTruncation_dataStart (s : State) (n : Nat) : (s.noteTruncation n).dataStart = s.dataStart := by
  unfold State.noteTruncation; split <;> rfl
@[simp] theorem State.noteTruncation_dataLen (s : State) (n : Nat) : (s.noteTruncation n).dataLen = s.dataLen := by
  unfold State.noteTruncation; split <;> rfl
@[simp] theorem State.noteTruncation_ncb (s : State) (n : Nat) : (s.noteTruncation n).ncb = s.ncb := by
  unfold State.noteTruncation; split <;> rfl
@[simp] theorem State.noteTruncation_pollActive (s : State) (n : Nat) : (s.noteTruncation n).pollActive = s.pollActive := by
  unfold State.noteTruncation; split <;> rfl
@[simp] theorem State.noteTruncation_encRem (s : State) (n : Nat) : (s.noteTruncation n).encRem = s.encRem := by
  unfold State.noteTruncation; split <;> rfl
@[simp] theorem State.noteTruncation_scrGen (s : State) (n : Nat) : (s.noteTruncation n).scrGen = s.scrGen := by
  unfold State.noteTruncation; split <;> rfl
@[simp] theorem State.noteTruncation_encSent (s : State) (n : Nat) : (s.noteTruncation n).encSent = s.encSent := by
  unfold State.noteTruncation; split <;> rfl
@[simp] theorem State.noteTruncation_scan (s : State) (n : Nat) : (s.noteTruncation n).scan = s.scan := by
  unfold State.noteTruncation; split <;> rfl
@[simp] theorem State.noteTruncation_draws (s : State) (n : Nat) : (s.noteTruncation n).draws = s.draws := by
  unfold State.noteTruncation; split <;> rfl
@[simp] theorem State.noteTruncation_sched (s : State) (n : Nat) : (s.noteTruncation n).sched = s.sched := by
  unfold State.noteTruncation; split <;> rfl
@[simp] theorem State.noteTruncation_events (s : State) (n : Nat) :
    (s.noteTruncation n).events = s.events ++ (if s.cfg.maxItems < n then [.itemsTruncated n] else []) := by
  unfold State.noteTruncation; split <;> simp
@[simp] theorem State.noteTruncation_outs (s : State) (n : Nat) : (s.noteTruncation n).outs = s.outs := by
  unfold State.noteTruncation; split <;> rfl

@[simp] theorem State.syncP_cfg (s : State) (q : QId) : (s.syncP q).cfg = s.cfg := by cases q <;> rfl
@[simp] theorem State.syncP_rx (s : State) (q : QId) :
    (s.syncP q).rx = if q = .rxq then s.rx.syncP s.cfg.rx else s.rx := by cases q <;> rfl
@[simp] theorem State.syncP_fq (s : State) (q : QId) :
    (s.syncP q).fq = if q = .fq then s.fq.syncP s.cfg.fq else s.fq := by cases q <;> rfl
@[simp] theorem State.syncP_tx (s : State) (q : QId) :
    (s.syncP q).tx = if q = .txq then s.tx.syncP s.cfg.tx else s.tx := by cases q <;> rfl
@[simp] theorem State.syncP_scr (s : State) (q : QId) : (s.syncP q).scr = s.scr := by cases q <;> rfl
@[simp] theorem State.syncP_pstate (s : State) (q : QId) : (s.syncP q).pstate = s.pstate := by cases q <;> rfl
@[simp] theorem State.syncP_w (s : State) (q : QId) : (s.syncP q).w = s.w := by cases q <;> rfl
@[simp] theorem State.syncP_pathStart (s : State) (q : QId) : (s.syncP q).pathStart = s.pathStart := by cases q <;> rfl
@[simp] theorem State.syncP_pathLen (s : State) (q : QId) : (s.syncP q).pathLen = s.pathLen := by cases q <;> rfl
@[simp] theorem State.syncP_dataStart (s : State) (q : QId) : (s.syncP q).dataStart = s.dataStart := by cases q <;> rfl
@[simp] theorem State.syncP_dataLen (s : State) (q : QId) : (s.syncP q).dataLen = s.dataLen := by cases q <;> rfl
@[simp] theorem State.syncP_ncb (s : State) (q : QId) : (s.syncP q).ncb = s.ncb := by cases q <;> rfl
@[simp] theorem State.syncP_pollActive (s : State) (q : QId) : (s.syncP q).pollActive = s.pollActive := by cases q <;> rfl
@[simp] theorem State.syncP_encRem (s : State) (q : QId) : (s.syncP q).encRem = s.encRem := by cases q <;> rfl
@[simp] theorem State.syncP_scrGen (s : State) (q : QId) : (s.syncP q).scrGen = s.scrGen := by cases q <;> rfl
@[simp] theorem State.syncP_encSent (s : State) (q : QId) : (s.syncP q).encSent = s.encSent := by cases q <;> rfl
@[simp] theorem State.syncP_scan (s : State) (q : QId) : (s.syncP q).scan = s.scan := by cases q <;> rfl
@[simp] theorem State.syncP_draws (s : State) (q : QId) : (s.syncP q).draws = s.draws := by cases q <;> rfl
@[simp] theorem State.syncP_sched (s : State) (q : QId) : (s.syncP q).sched = s.sched := by cases q <;> rfl
@[simp] theorem State.syncP_events (s : State) (q : QId) : (s.syncP q).events = s.events := by cases q <;> rfl
@[simp] theorem State.syncP_outs (s : State) (q : QId) : (s.syncP q).outs = s.outs := by cases q <;> rfl

@[simp] theorem State.syncC_cfg (s : State) (q : QId) : (s.syncC q).cfg = s.cfg := by cases q <;> rfl
@[simp] theorem State.syncC_rx (s : State) (q : QId) :
    (s.syncC q).rx = if q = .rxq then s.rx.syncC s.cfg.rx else s.rx := by cases q <;> rfl
@[simp] theorem State.syncC_fq (s : State) (q : QId) :
    (s.syncC q).fq = if q = .fq then s.fq.syncC s.cfg.fq else s.fq := by cases q <;> rfl
@[simp] theorem State.syncC_tx (s : State) (q : QId) :
    (s.syncC q).tx = if q = .txq then s.tx.syncC s.cfg.tx else s.tx := by cases q <;> rfl
@[simp] theorem State.syncC_scr (s : State) (q : QId) : (s.syncC q).scr = s.scr := by cases q <;> rfl
@[simp] theorem State.syncC_pstate (s : State) (q : QId) : (s.syncC q).pstate = s.pstate := by cases q <;> rfl
@[simp] theorem State.syncC_w (s : State) (q : QId) : (s.syncC q).w = s.w := by cases q <;> rfl
@[simp] theorem State.syncC_pathStart (s : State) (q : QId) : (s.syncC q).pathStart = s.pathStart := by cases q <;> rfl
@[simp] theorem State.syncC_pathLen (s : State) (q : QId) : (s.syncC q).pathLen = s.pathLen := by cases q <;> rfl
@[simp] theorem State.syncC_dataStart (s : State) (q : QId) : (s.syncC q).dataStart = s.dataStart := by cases q <;> rfl
@[simp] theorem State.syncC_dataLen (s : State) (q : QId) : (s.syncC q).dataLen = s.dataLen := by cases q <;> rfl
@[simp] theorem State.syncC_ncb (s : State) (q : QId) : (s.syncC q).ncb = s.ncb := by cases q <;> rfl
@[simp] theorem State.syncC_pollActive (s : State) (q : QId) : (s.syncC q).pollActive = s.pollActive := by cases q <;> rfl
@[simp] theorem State.syncC_encRem (s : State) (q : QId) : (s.syncC q).encRem = s.encRem := by cases q <;> rfl
@[simp] theorem State.syncC_scrGen (s : State) (q : QId) : (s.syncC q).scrGen = s.scrGen := by cases q <;> rfl
@[simp] theorem State.syncC_encSent (s : State) (q : QId) : (s.syncC q).encSent = s.encSent := by cases q <;> rfl
@[simp] theorem State.syncC_scan (s : State) (q : QId) : (s.syncC q).scan = s.scan := by cases q <;> rfl
@[simp] theorem State.syncC_draws (s : State) (q : QId) : (s.syncC q).draws = s.draws := by cases q <;> rfl
@[simp] theorem State.syncC_sched (s : State) (q : QId) : (s.syncC q).sched = s.sched := by cases q <;> rfl
@[simp] theorem State.syncC_events (s : State) (q : QId) : (s.syncC q).events = s.events := by cases q <;> rfl
@[simp] theorem State.syncC_outs (s : State) (q : QId) : (s.syncC q).outs = s.outs := by cases q <;> rfl

end Sys2Proof.Machine
end

