-- ==== Sys2Proof/Laws/Ops.lean ====
section
/-! SUPPORT. One lemma for each shared operation, saying once everything it can answer; the meanings' proofs cite these. -/

namespace Sys2Proof.Machine

variable {α : Type}

/-! ## The Bounded Queue -/

/-- Q.PUSH answers one of three things: full and unchanged; the item stored and the index advanced; or a producer index outside the
storage (R122). -/
theorem Queue.push_cases (g : Geometry) (q : Queue α) (x : α) :
    (q.fullP g = true ∧ q.push g x = .ok none) ∨
    (q.fullP g = false ∧ q.prod < g.cap ∧
      q.push g x = .ok (some { q with store := Memory.write q.store q.prod x, prod := advance g q.prod })) ∨
    (q.fullP g = false ∧ g.cap ≤ q.prod ∧ q.push g x = .error .noSuchAddress) := by
  unfold Queue.push
  by_cases hf : q.fullP g = true
  · simp [hf]
  · by_cases hp : q.prod < g.cap
    · simp_all
    · simp_all

/-- Q.POP answers one of four things: empty and unchanged; the item with the index advanced; an unwritten slot; or a consumer index
outside the storage (R124). -/
theorem Queue.pop_cases (g : Geometry) (q : Queue α) :
    (q.emptyC g = true ∧ q.pop g = .ok none) ∨
    (∃ x, q.emptyC g = false ∧ q.cons < g.cap ∧ Memory.read q.store q.cons = some x ∧
      q.pop g = .ok (some (x, { q with cons := advance g q.cons }))) ∨
    (q.emptyC g = false ∧ q.cons < g.cap ∧ Memory.read q.store q.cons = none ∧ q.pop g = .error .uninitRead) ∨
    (q.emptyC g = false ∧ g.cap ≤ q.cons ∧ q.pop g = .error .noSuchAddress) := by
  unfold Queue.pop
  by_cases he : q.emptyC g = true
  · simp [he]
  · by_cases hc : q.cons < g.cap
    · cases hr : Memory.read q.store q.cons with
      | none => simp_all
      | some x => simp_all
    · simp_all

/-- The machine's Q.PUSH on RXQ in terms of the queue's (R122). -/
theorem State.pushRx_eq (s : State) (b : Byte) :
    s.pushRx b = match s.rx.push s.cfg.rx b with
      | .error f => .error f
      | .ok none => .ok (s.raise (.pushFull .rxq), false)
      | .ok (some q) => .ok ({ s with rx := q }, true) := rfl

/-- The machine's Q.PUSH on FQ in terms of the queue's (R122). -/
theorem State.pushFq_eq (s : State) (v : View) :
    s.pushFq v = match s.fq.push s.cfg.fq v with
      | .error f => .error f
      | .ok none => .ok (s.raise (.pushFull .fq), false)
      | .ok (some q) => .ok ({ s with fq := q }, true) := rfl

/-- The machine's Q.PUSH on TXQ in terms of the queue's (R122). -/
theorem State.pushTx_eq (s : State) (b : Byte) :
    s.pushTx b = match s.tx.push s.cfg.tx b with
      | .error f => .error f
      | .ok none => .ok (s.raise (.pushFull .txq), false)
      | .ok (some q) => .ok ({ s with tx := q }, true) := rfl

/-- If Q.PUSH on RXQ answers at all, it changed RXQ alone, or raised EV_PUSH_FULL alone. -/
theorem State.pushRx_cases {s t : State} {b : Byte} {ok : Bool} (h : s.pushRx b = .ok (t, ok)) :
    (ok = false ∧ s.rx.fullP s.cfg.rx = true ∧ t = s.raise (.pushFull .rxq)) ∨
    (ok = true ∧ s.rx.fullP s.cfg.rx = false ∧ s.rx.prod < s.cfg.rx.cap ∧
      t = { s with rx := { s.rx with store := Memory.write s.rx.store s.rx.prod b, prod := advance s.cfg.rx s.rx.prod } }) := by
  rw [State.pushRx_eq] at h
  rcases Queue.push_cases s.cfg.rx s.rx b with ⟨hf, he⟩ | ⟨hf, hp, he⟩ | ⟨hf, hp, he⟩ <;> rw [he] at h <;> cases h
  · exact .inl ⟨rfl, hf, rfl⟩
  · exact .inr ⟨rfl, hf, hp, rfl⟩

/-- If Q.PUSH on FQ answers at all, it changed FQ alone, or raised EV_PUSH_FULL alone. -/
theorem State.pushFq_cases {s t : State} {v : View} {ok : Bool} (h : s.pushFq v = .ok (t, ok)) :
    (ok = false ∧ s.fq.fullP s.cfg.fq = true ∧ t = s.raise (.pushFull .fq)) ∨
    (ok = true ∧ s.fq.fullP s.cfg.fq = false ∧ s.fq.prod < s.cfg.fq.cap ∧
      t = { s with fq := { s.fq with store := Memory.write s.fq.store s.fq.prod v, prod := advance s.cfg.fq s.fq.prod } }) := by
  rw [State.pushFq_eq] at h
  rcases Queue.push_cases s.cfg.fq s.fq v with ⟨hf, he⟩ | ⟨hf, hp, he⟩ | ⟨hf, hp, he⟩ <;> rw [he] at h <;> cases h
  · exact .inl ⟨rfl, hf, rfl⟩
  · exact .inr ⟨rfl, hf, hp, rfl⟩

/-- If Q.PUSH on TXQ answers at all, it changed TXQ alone, or raised EV_PUSH_FULL alone. -/
theorem State.pushTx_cases {s t : State} {b : Byte} {ok : Bool} (h : s.pushTx b = .ok (t, ok)) :
    (ok = false ∧ s.tx.fullP s.cfg.tx = true ∧ t = s.raise (.pushFull .txq)) ∨
    (ok = true ∧ s.tx.fullP s.cfg.tx = false ∧ s.tx.prod < s.cfg.tx.cap ∧
      t = { s with tx := { s.tx with store := Memory.write s.tx.store s.tx.prod b, prod := advance s.cfg.tx s.tx.prod } }) := by
  rw [State.pushTx_eq] at h
  rcases Queue.push_cases s.cfg.tx s.tx b with ⟨hf, he⟩ | ⟨hf, hp, he⟩ | ⟨hf, hp, he⟩ <;> rw [he] at h <;> cases h
  · exact .inl ⟨rfl, hf, rfl⟩
  · exact .inr ⟨rfl, hf, hp, rfl⟩

/-- If Q.POP on RXQ answers at all, it raised EV_POP_EMPTY alone, or advanced RXQ's consumer index alone. -/
theorem State.popRx_cases {s t : State} {r : Option Byte} (h : s.popRx = .ok (t, r)) :
    (r = none ∧ s.rx.emptyC s.cfg.rx = true ∧ t = s.raise (.popEmpty .rxq)) ∨
    (∃ b, r = some b ∧ s.rx.emptyC s.cfg.rx = false ∧ s.rx.cons < s.cfg.rx.cap ∧
      Memory.read s.rx.store s.rx.cons = some b ∧ t = { s with rx := { s.rx with cons := advance s.cfg.rx s.rx.cons } }) := by
  unfold State.popRx at h
  rcases Queue.pop_cases s.cfg.rx s.rx with ⟨he, hq⟩ | ⟨b, he, hc, hr, hq⟩ | ⟨he, hc, hr, hq⟩ | ⟨he, hc, hq⟩ <;>
    rw [hq] at h <;> cases h
  · exact .inl ⟨rfl, he, rfl⟩
  · exact .inr ⟨b, rfl, he, hc, hr, rfl⟩

/-- If Q.POP on FQ answers at all, it raised EV_POP_EMPTY alone, or advanced FQ's consumer index alone. -/
theorem State.popFq_cases {s t : State} {r : Option View} (h : s.popFq = .ok (t, r)) :
    (r = none ∧ s.fq.emptyC s.cfg.fq = true ∧ t = s.raise (.popEmpty .fq)) ∨
    (∃ v, r = some v ∧ s.fq.emptyC s.cfg.fq = false ∧ s.fq.cons < s.cfg.fq.cap ∧
      Memory.read s.fq.store s.fq.cons = some v ∧ t = { s with fq := { s.fq with cons := advance s.cfg.fq s.fq.cons } }) := by
  unfold State.popFq at h
  rcases Queue.pop_cases s.cfg.fq s.fq with ⟨he, hq⟩ | ⟨b, he, hc, hr, hq⟩ | ⟨he, hc, hr, hq⟩ | ⟨he, hc, hq⟩ <;>
    rw [hq] at h <;> cases h
  · exact .inl ⟨rfl, he, rfl⟩
  · exact .inr ⟨b, rfl, he, hc, hr, rfl⟩

/-- If Q.POP on TXQ answers at all, it raised EV_POP_EMPTY alone, or advanced TXQ's consumer index alone. -/
theorem State.popTx_cases {s t : State} {r : Option Byte} (h : s.popTx = .ok (t, r)) :
    (r = none ∧ s.tx.emptyC s.cfg.tx = true ∧ t = s.raise (.popEmpty .txq)) ∨
    (∃ b, r = some b ∧ s.tx.emptyC s.cfg.tx = false ∧ s.tx.cons < s.cfg.tx.cap ∧
      Memory.read s.tx.store s.tx.cons = some b ∧ t = { s with tx := { s.tx with cons := advance s.cfg.tx s.tx.cons } }) := by
  unfold State.popTx at h
  rcases Queue.pop_cases s.cfg.tx s.tx with ⟨he, hq⟩ | ⟨b, he, hc, hr, hq⟩ | ⟨he, hc, hr, hq⟩ | ⟨he, hc, hq⟩ <;>
    rw [hq] at h <;> cases h
  · exact .inl ⟨rfl, he, rfl⟩
  · exact .inr ⟨b, rfl, he, hc, hr, rfl⟩

/-- What a producer's port answers next: the push's state with its result shown. -/
theorem pushResult_next {q : QId} {r : Except Fault (State × Bool)} {t : State} (h : pushResult q r = .next t) :
    ∃ s ok, r = .ok (s, ok) ∧ t = s.emitOut (.pushOk q ok) := by
  unfold pushResult at h
  split at h
  · cases h
  · rename_i s ok
    cases h
    exact ⟨s, ok, rfl, rfl⟩

/-- What a byte consumer's port answers next: the pop's state with its result shown. -/
theorem popByteResult_next {q : QId} {r : Except Fault (State × Option Byte)} {t : State} (h : popByteResult q r = .next t) :
    ∃ s b, r = .ok (s, b) ∧ t = s.emitOut (.popByte q b) := by
  unfold popByteResult at h
  split at h
  · cases h
  · rename_i s b
    cases h
    exact ⟨s, b, rfl, rfl⟩

/-- What FQ's consumer port answers next: the pop's state with its result shown. -/
theorem popViewResult_next {r : Except Fault (State × Option View)} {t : State} (h : popViewResult r = .next t) :
    ∃ s v, r = .ok (s, v) ∧ t = s.emitOut (.popView v) := by
  unfold popViewResult at h
  split at h
  · cases h
  · rename_i s v
    cases h
    exact ⟨s, v, rfl, rfl⟩

/-! ## Scratch reads -/

/-- A scratch byte is read exactly inside the buffer and where something was written. -/
theorem State.readScr_ok_iff (s : State) (a : Nat) (b : Byte) :
    s.readScr a = .ok b ↔ a < s.cfg.size ∧ Memory.read s.scr a = some b := by
  unfold State.readScr
  split
  · cases h : Memory.read s.scr a <;> simp_all
  · simp_all

/-- A slice is read exactly when its bytes are: it has their number, and each is the byte at its address. -/
theorem State.readSlice_ok_iff (s : State) (off n : Nat) (bs : List Byte) :
    s.readSlice off n = .ok bs ↔ bs.length = n ∧ ∀ i (h : i < bs.length), s.readScr (off + i) = .ok bs[i] := by
  induction n generalizing off bs with
  | zero =>
    unfold State.readSlice
    constructor
    · intro h; cases h; simp
    · rintro ⟨h, -⟩; rw [List.length_eq_zero_iff.1 h]
  | succ n ih =>
    unfold State.readSlice
    cases hb : s.readScr off with
    | error f =>
      simp only [reduceCtorEq, false_iff, not_and, not_forall]
      intro hl
      exact ⟨0, by omega, by simp [hb]⟩
    | ok b =>
      cases hr : s.readSlice (off + 1) n with
      | error f =>
        simp only [reduceCtorEq, false_iff]
        rintro ⟨hl, hbs⟩
        cases bs with
        | nil => simp at hl
        | cons c cs =>
          have := (ih (off + 1) cs).2 ⟨by simpa using hl, fun i h => by
            have := hbs (i + 1) (by simpa using h)
            rwa [List.getElem_cons_succ, show off + (i + 1) = off + 1 + i by omega] at this⟩
          rw [hr] at this
          cases this
      | ok cs =>
        constructor
        · intro h
          cases h
          obtain ⟨hl, hc⟩ := (ih (off + 1) cs).1 hr
          refine ⟨by simp [hl], fun i h => ?_⟩
          cases i with
          | zero => simpa using hb
          | succ i =>
            have := hc i (by simpa using h)
            rwa [List.getElem_cons_succ, show off + (i + 1) = off + 1 + i by omega]
        · rintro ⟨hl, hbs⟩
          cases bs with
          | nil => simp at hl
          | cons c ds =>
            have h0 := hbs 0 (by simp)
            simp only [Nat.add_zero, List.getElem_cons_zero, hb] at h0
            have h1 := (ih (off + 1) ds).2 ⟨by simpa using hl, fun i h => by
              have := hbs (i + 1) (by simpa using h)
              rwa [List.getElem_cons_succ, show off + (i + 1) = off + 1 + i by omega] at this⟩
            rw [hr] at h1
            cases h0
            cases h1
            rfl

/-- Writing the scratch buffer is seen by reads alone. -/
theorem State.readScr_writeScr (s : State) (a : Nat) (b : Byte) (c : Nat) :
    (s.writeScr a b).readScr c = if c = a ∧ c < s.cfg.size then .ok b else s.readScr c := by
  unfold State.readScr
  simp only [State.writeScr_cfg, State.writeScr_scr, Memory.read_write]
  by_cases ha : c = a
  · subst ha
    by_cases hc : c < s.cfg.size <;> simp [hc]
  · by_cases hc : c < s.cfg.size <;> simp [hc, ha]

/-! ## Selection, the command port, the encoder -/

/-- A parser row answers next exactly where it is selected and its effect does. -/
theorem onRow_next_iff (sel : Bool) (o : Host.Outcome State Fault Refusal) (t : State) :
    onRow sel o = .next t ↔ sel = true ∧ o = .next t := by
  unfold onRow
  cases sel <;> simp

/-- The condition of a row: the state, the guard that did not fire, the byte. -/
@[simp] theorem State.inRow_iff (s : State) (st : PState) (byteOk : Bool) :
    s.inRow st byteOk = true ↔ s.pstate = st ∧ s.w < s.cfg.size ∧ byteOk = true := by
  simp [State.inRow, and_assoc]

/-- A command answers next exactly when the port is free and its effect does (R104). -/
theorem onIdle_next_iff (s : State) (o : Host.Outcome State Fault Refusal) (t : State) :
    onIdle s o = .next t ↔ s.busy = false ∧ o = .next t := by
  unfold onIdle
  cases s.busy <;> simp

/-- An encoder operation starts exactly when it has at most K values, with its whole frame computed (R201, R203). -/
theorem acceptFrame_next_iff (s : State) (n : Nat) (path : List Byte) (texts : List (List Byte)) (t : State) :
    acceptFrame s n path texts = .next t ↔ n ≤ s.cfg.maxItems ∧ t = s.startFrame (frameBytes path texts) := by
  unfold acceptFrame
  split <;> simp_all [eq_comm]

/-- The command port is free when no P.POLL runs and no frame byte is left. -/
@[simp] theorem State.busy_eq_false (s : State) : s.busy = false ↔ s.pollActive = false ∧ s.encRem = [] := by
  simp [State.busy]

/-- E.EMIT answers one of four things: nothing to do; a byte pushed and more to come; the last byte pushed; the abort (R204). -/
theorem State.emit_cases {s t : State} (h : s.emit = .next t) :
    (s.encRem = [] ∧ t = s) ∨
    (∃ b c cs u, s.encRem = b :: c :: cs ∧ s.pushTx b = .ok (u, true) ∧
      t = ({ u with encRem := c :: cs, encSent := u.encSent + 1 } : State).fire) ∨
    (∃ b u, s.encRem = [b] ∧ s.pushTx b = .ok (u, true) ∧
      t = (({ u with encRem := [], encSent := 0 } : State).fire.done true)) ∨
    (∃ b cs u, s.encRem = b :: cs ∧ s.pushTx b = .ok (u, false) ∧
      t = ((({ u with encRem := [], encSent := 0 } : State).raise (.encAbort u.encSent)).done false)) := by
  unfold State.emit at h
  split at h
  · rename_i he; cases h; exact .inl ⟨he, rfl⟩
  · rename_i b rest he
    split at h
    · cases h
    · rename_i u hu
      split at h
      · cases h; exact .inr (.inr (.inl ⟨b, u, he, hu, rfl⟩))
      · rename_i c cs; cases h; exact .inr (.inl ⟨b, c, cs, u, he, hu, rfl⟩)
    · rename_i u hu
      cases h
      exact .inr (.inr (.inr ⟨b, rest, u, he, hu, rfl⟩))

/-- P.RD.RBRACE's push of the completed frame answers next in two ways: queued, or dropped with FQ full (R154). -/
theorem execPRdRbrace_cases {s t : State} (h : execPRdRbrace s = .next t) :
    (s.pstate = .readData ∧ s.w < s.cfg.size) ∧
    ((∃ u, s.endData.pushFq s.endData.frameView = .ok (u, true) ∧ t = { u.resetIdx with pstate := .waitStart }) ∨
     (∃ u, s.endData.pushFq s.endData.frameView = .ok (u, false) ∧ t = u.resetIdx.enterError .frameqFull)) := by
  unfold execPRdRbrace at h
  obtain ⟨hsel, ho⟩ := (onRow_next_iff _ _ _).1 h
  obtain ⟨h1, h2, -⟩ := (State.inRow_iff _ _ _).1 hsel
  refine ⟨⟨h1, h2⟩, ?_⟩
  split at ho
  · cases ho
  · rename_i u hu; cases ho; exact .inl ⟨u, hu, rfl⟩
  · rename_i u hu; cases ho; exact .inr ⟨u, hu, rfl⟩

/-- What a step answers: an instruction run, or the turn's own answer. -/
theorem step_eq (s : State) : step s = match fetch s with | .run i t => exec i t | .answer o => o := rfl

/-- The scan of a payload on the machine is the scan of the payload (R175). -/
theorem State.scanClass_foldl (s : State) (data : List Byte) :
    data.foldl (fun t b => t.scanClass (byteClass b)) s =
      { s with scan := data.foldl (fun sc b => sc.add (byteClass b)) s.scan } := by
  induction data generalizing s with
  | nil => rfl
  | cons b bs ih => rw [List.foldl_cons, ih, List.foldl_cons]; rfl

/-- Classify in place gives Classify's type, and leaves the scan cleared and nothing else changed (R175). -/
theorem State.scanData_eq (s : State) (data : List Byte) :
    s.scanData data = (classify data, { s with scan := Scan.start }) := by
  unfold State.scanData
  rw [State.scanClass_foldl]
  rfl

/-! ## Decimal text -/

/-- The fuel of Dec does not matter once it is enough. -/
theorem decFuel_eq_of_le (k : Nat) : ∀ (l m : Nat), m < 10 * 2 ^ k → k ≤ l → decFuel l m = decFuel k m := by
  induction k with
  | zero =>
    intro l m hm _
    have h10 : m < 10 := by simpa using hm
    cases l with
    | zero => rfl
    | succ l => simp [decFuel, h10, Nat.mod_eq_of_lt h10]
  | succ k ih =>
    intro l m hm hl
    cases l with
    | zero => omega
    | succ l =>
      unfold decFuel
      split
      · rfl
      · rw [ih l (m / 10) (by rw [Nat.pow_succ] at hm; omega) (by omega)]

/-- Dec's own equation (R210). -/
theorem dec_eq (m : Nat) :
    dec m = if m < 10 then [chZero + BitVec.ofNat 8 m] else dec (m / 10) ++ [chZero + BitVec.ofNat 8 (m % 10)] := by
  unfold dec
  split
  · rename_i h
    rw [decFuel_eq_of_le 0 _ m (by simpa using h) (Nat.zero_le _)]
    simp [decFuel, Nat.mod_eq_of_lt h]
  · rename_i h
    have hm : m ≠ 0 := by omega
    have hlog : 3 ≤ m.log2 := (Nat.le_log2 hm).2 (by omega)
    obtain ⟨k, hk⟩ : ∃ k, m.log2 = k + 1 := ⟨m.log2 - 1, by omega⟩
    rw [hk, decFuel, if_neg h]
    have hd : m / 10 ≠ 0 := by omega
    have hlt : m < 2 ^ (m.log2 + 1) := Nat.lt_log2_self
    have hle : (m / 10).log2 ≤ k := by
      have : (m / 10).log2 < k + 1 := (Nat.log2_lt hd).2 (by rw [hk, Nat.pow_succ] at hlt; omega)
      omega
    rw [decFuel_eq_of_le (m / 10).log2 k (m / 10) _ hle]
    have := @Nat.lt_log2_self (m / 10)
    rw [Nat.pow_succ] at this
    omega

end Sys2Proof.Machine
end

