-- ==== Sys2Proof/Laws/PerInstr.lean ====
section
/-! SUPPORT. Statements for all instructions, one lemma per constructor. -/

namespace Sys2Proof.Laws

/-- The encoding of a well-formed instruction matches its row of spec/opcode_table.json: `key & mask = match`. -/
def RowBits.Statement (i : Instr) : Prop := i.wf = true → (encode i).key &&& i.row.2.2 = i.row.2.1

theorem RowBits.pOvf (st : BitVec 3) (c : Byte) : RowBits.Statement (.pOvf st c) := fun _ => by simp [encode, Instr.row]
theorem RowBits.pWsLbrace : RowBits.Statement (.pWsLbrace) := fun _ => rfl
theorem RowBits.pWsOther (c : Byte) : RowBits.Statement (.pWsOther c) := by revert c; unfold RowBits.Statement; decide
theorem RowBits.pWpP : RowBits.Statement (.pWpP) := fun _ => rfl
theorem RowBits.pWpOther (c : Byte) : RowBits.Statement (.pWpOther c) := by revert c; unfold RowBits.Statement; decide
theorem RowBits.pWpcColon : RowBits.Statement (.pWpcColon) := fun _ => rfl
theorem RowBits.pWpcOther (c : Byte) : RowBits.Statement (.pWpcOther c) := by revert c; unfold RowBits.Statement; decide
theorem RowBits.pRpColon : RowBits.Statement (.pRpColon) := fun _ => rfl
theorem RowBits.pRpOther (c : Byte) : RowBits.Statement (.pRpOther c) := by revert c; unfold RowBits.Statement; decide
theorem RowBits.pWdD : RowBits.Statement (.pWdD) := fun _ => rfl
theorem RowBits.pWdOther (c : Byte) : RowBits.Statement (.pWdOther c) := by revert c; unfold RowBits.Statement; decide
theorem RowBits.pWdcColon : RowBits.Statement (.pWdcColon) := fun _ => rfl
theorem RowBits.pWdcOther (c : Byte) : RowBits.Statement (.pWdcOther c) := by revert c; unfold RowBits.Statement; decide
theorem RowBits.pRdRbrace : RowBits.Statement (.pRdRbrace) := fun _ => rfl
theorem RowBits.pRdOther (c : Byte) : RowBits.Statement (.pRdOther c) := by revert c; unfold RowBits.Statement; decide
theorem RowBits.pErLbrace : RowBits.Statement (.pErLbrace) := fun _ => rfl
theorem RowBits.pErOther (c : Byte) : RowBits.Statement (.pErOther c) := by revert c; unfold RowBits.Statement; decide
theorem RowBits.clsDigit07 (d : BitVec 3) : RowBits.Statement (.clsDigit07 d) := by revert d; unfold RowBits.Statement; decide
theorem RowBits.clsDigit89 (d : BitVec 1) : RowBits.Statement (.clsDigit89 d) := by revert d; unfold RowBits.Statement; decide
theorem RowBits.clsMinus : RowBits.Statement (.clsMinus) := fun _ => rfl
theorem RowBits.clsComma : RowBits.Statement (.clsComma) := fun _ => rfl
theorem RowBits.clsDot : RowBits.Statement (.clsDot) := fun _ => rfl
theorem RowBits.clsOther (b : Byte) : RowBits.Statement (.clsOther b) := by revert b; unfold RowBits.Statement; decide
theorem RowBits.pPoll : RowBits.Statement (.pPoll) := fun _ => rfl
theorem RowBits.dPoll : RowBits.Statement (.dPoll) := fun _ => rfl
theorem RowBits.nSet (cb : Option Nat) : RowBits.Statement (.nSet cb) := fun _ => by simp [encode, Instr.row, Signal.key, CmdSig.ofOp]
theorem RowBits.eNone (path : List Byte) : RowBits.Statement (.eNone path) := fun _ => by simp [encode, Instr.row, Signal.key, CmdSig.ofOp]
theorem RowBits.eInt (path : List Byte) (vals : List Word) : RowBits.Statement (.eInt path vals) := fun _ => by simp [encode, Instr.row, Signal.key, CmdSig.ofOp]
theorem RowBits.eFloat (path : List Byte) (vals : List Word) : RowBits.Statement (.eFloat path vals) := fun _ => by simp [encode, Instr.row, Signal.key, CmdSig.ofOp]
theorem RowBits.eStr (path : List Byte) (strs : List (List Byte)) : RowBits.Statement (.eStr path strs) := fun _ => by simp [encode, Instr.row, Signal.key, CmdSig.ofOp]
theorem RowBits.cmdReserved0 : RowBits.Statement (.cmdReserved0) := fun _ => rfl
theorem RowBits.cmdReserved8F (low : BitVec 3) : RowBits.Statement (.cmdReserved8F low) := by revert low; unfold RowBits.Statement; decide
theorem RowBits.qPush (who : Role) (item : QItem) : RowBits.Statement (.qPush who item) := fun _ => by simp [encode, Instr.row, Signal.key]
theorem RowBits.qPop (who : Role) (q : QId) : RowBits.Statement (.qPop who q) := fun _ => by simp [encode, Instr.row, Signal.key]
theorem RowBits.rxPush (b : Byte) : RowBits.Statement (.rxPush b) := fun _ => by simp [encode, Instr.row, Signal.key]
theorem RowBits.txPop : RowBits.Statement (.txPop) := fun _ => rfl
theorem RowBits.rst : RowBits.Statement (.rst) := fun _ => rfl

end Sys2Proof.Laws
end

