-- ==== Sys2Proof/Tests/Slice0.lean ====
section
/-! SUPPORT. Tests of the model on small states, with expected values from the spec's worked examples and test vectors
(95_test_vectors.md), and for each obligation a witness that its hypotheses can be met. -/

open Sys2Proof Sys2Proof.Machine

namespace Sys2Proof.Tests

/-- A small engine: `C_RX = C_TX = 4`, `C_FQ = 2`, `S = 8`, `K = 2`. -/
def cfg : Config where
  cRx := 4
  cFq := 2
  cTx := 4
  size := 8
  maxItems := 2
  rxSync := .synchronised
  txSync := .synchronised
  routes := [⟨[0x61], .int, 10⟩, ⟨[0x62], .string, 11⟩, ⟨[0x63], .float, 12⟩]
  cRx_gt := by decide
  cFq_gt := by decide
  cTx_gt := by decide
  size_ge := by decide
  maxItems_ge := by decide

/-- The small engine after reset. -/
def fresh : State := State.resetWith cfg

/-- The small engine with the parser in a given state, its five indices, and scratch bytes 0 to 7 written with 0x00. -/
def parsing (st : PState) (w ps pl ds dl : Nat) : State :=
  { fresh with
    pstate := st, w := w, pathStart := ps, pathLen := pl, dataStart := ds, dataLen := dl
    scr := [(0, 0x00), (1, 0x00), (2, 0x00), (3, 0x00), (4, 0x00), (5, 0x00), (6, 0x00), (7, 0x00)] }

/-- The state of a next outcome. -/
def nextOf : Host.Outcome State Fault Refusal → Option State
  | .next s => some s
  | .fault _ => none
  | .refused _ => none

/-- The fault of an outcome. -/
def faultOf : Host.Outcome State Fault Refusal → Option Fault
  | .next _ => none
  | .fault f => some f
  | .refused _ => none

/-- The refusal of an outcome. -/
def refusalOf : Host.Outcome State Fault Refusal → Option Refusal
  | .next _ => none
  | .fault _ => none
  | .refused r => some r

/-- The parser's registers, its state's code first. -/
def regs (s : State) : BitVec 3 × Nat × Nat × Nat × Nat × Nat :=
  (s.pstate.code, s.w, s.pathStart, s.pathLen, s.dataStart, s.dataLen)

/-- The state code and the five indices after an instruction. -/
def regsAfter (i : Instr) (s : State) : Option (BitVec 3 × Nat × Nat × Nat × Nat × Nat) := (nextOf (exec i s)).map regs

/-! ## Well-formedness: each check refuses an ill-formed term -/

theorem test_wf_refuses_ws_other : (Instr.pWsOther 0x7B).wf = false := by decide
theorem test_wf_refuses_wp_other : (Instr.pWpOther 0x70).wf = false := by decide
theorem test_wf_refuses_wpc_other : (Instr.pWpcOther 0x3A).wf = false := by decide
theorem test_wf_refuses_rp_other : (Instr.pRpOther 0x3A).wf = false := by decide
theorem test_wf_refuses_wd_other : (Instr.pWdOther 0x64).wf = false := by decide
theorem test_wf_refuses_wdc_other : (Instr.pWdcOther 0x3A).wf = false := by decide
theorem test_wf_refuses_rd_other : (Instr.pRdOther 0x7D).wf = false := by decide
theorem test_wf_refuses_er_other : (Instr.pErOther 0x7B).wf = false := by decide
theorem test_wf_refuses_cls_other : ∀ b ∈ [0x30, 0x39, 0x2D, 0x2C, (0x2E : Byte)], (Instr.clsOther b).wf = false := by decide
/-- A list one too long for the port. -/
def long (α : Type) (x : α) : List α := List.replicate 65536 x

theorem long_length (α : Type) (x : α) : (long α x).length = 65536 := List.length_replicate

theorem test_wf_refuses_long_none : (Instr.eNone (long Byte 0x61)).wf = false := by
  simp [Instr.wf, fitsPort, long_length]
theorem test_wf_refuses_long_int : (Instr.eInt [] (long Word 0)).wf = false := by
  simp [Instr.wf, fitsPort, long_length]
theorem test_wf_refuses_long_int_path : (Instr.eInt (long Byte 0x61) []).wf = false := by
  simp [Instr.wf, fitsPort, long_length]
theorem test_wf_refuses_long_float : (Instr.eFloat [] (long Word 0)).wf = false := by
  simp [Instr.wf, fitsPort, long_length]
theorem test_wf_refuses_long_float_path : (Instr.eFloat (long Byte 0x61) []).wf = false := by
  simp [Instr.wf, fitsPort, long_length]
theorem test_wf_refuses_many_strings : (Instr.eStr [] (long (List Byte) [])).wf = false := by
  simp [Instr.wf, fitsPort, long_length]
theorem test_wf_refuses_long_str_path : (Instr.eStr (long Byte 0x61) []).wf = false := by
  simp [Instr.wf, fitsPort, long_length]
theorem test_wf_refuses_long_string : (Instr.eStr [] [long Byte 0x61]).wf = false := by
  simp [Instr.wf, fitsPort, long_length]

/-! ## Decoding: words written out from the tables of R95, R96, R105, R102, R103, R107 and R108 -/

-- R95: bits 10:8 are the state code, bits 7:0 the byte.
theorem test_decode_ovf : decode (.pbyte true 0b011_01101001) = .ok (.pOvf 3 0x69) := by decide
theorem test_decode_ws_lbrace : decode (.pbyte false 0b000_01111011) = .ok .pWsLbrace := by decide
theorem test_decode_ws_other : decode (.pbyte false 0b000_01111101) = .ok (.pWsOther 0x7D) := by decide
theorem test_decode_wp_p : decode (.pbyte false 0b001_01110000) = .ok .pWpP := by decide
theorem test_decode_wp_other : decode (.pbyte false 0b001_01010000) = .ok (.pWpOther 0x50) := by decide
theorem test_decode_wpc_colon : decode (.pbyte false 0b010_00111010) = .ok .pWpcColon := by decide
theorem test_decode_wpc_other : decode (.pbyte false 0b010_01110000) = .ok (.pWpcOther 0x70) := by decide
theorem test_decode_rp_colon : decode (.pbyte false 0b011_00111010) = .ok .pRpColon := by decide
theorem test_decode_rp_other : decode (.pbyte false 0b011_01111101) = .ok (.pRpOther 0x7D) := by decide
theorem test_decode_wd_d : decode (.pbyte false 0b100_01100100) = .ok .pWdD := by decide
theorem test_decode_wd_other : decode (.pbyte false 0b100_01111000) = .ok (.pWdOther 0x78) := by decide
theorem test_decode_wdc_colon : decode (.pbyte false 0b101_00111010) = .ok .pWdcColon := by decide
theorem test_decode_wdc_other : decode (.pbyte false 0b101_01100100) = .ok (.pWdcOther 0x64) := by decide
theorem test_decode_rd_rbrace : decode (.pbyte false 0b110_01111101) = .ok .pRdRbrace := by decide
theorem test_decode_rd_other : decode (.pbyte false 0b110_00111010) = .ok (.pRdOther 0x3A) := by decide
theorem test_decode_er_lbrace : decode (.pbyte false 0b111_01111011) = .ok .pErLbrace := by decide
theorem test_decode_er_other : decode (.pbyte false 0b111_01110000) = .ok (.pErOther 0x70) := by decide
-- R96: the byte itself.
theorem test_decode_digit07 : decode (.port (.dbyte 0b00110101)) = .ok (.clsDigit07 5) := by decide
theorem test_decode_digit89 : decode (.port (.dbyte 0b00111001)) = .ok (.clsDigit89 1) := by decide
theorem test_decode_minus : decode (.port (.dbyte 0b00101101)) = .ok .clsMinus := by decide
theorem test_decode_comma : decode (.port (.dbyte 0b00101100)) = .ok .clsComma := by decide
theorem test_decode_dot : decode (.port (.dbyte 0b00101110)) = .ok .clsDot := by decide
theorem test_decode_cls_other : decode (.port (.dbyte 0b00101011)) = .ok (.clsOther 0x2B) := by decide
-- R105 and R101: cmd_op, with the operand signals beside it.
theorem test_decode_ppoll : decode (.port (.cmd ⟨0b0001, [], 0, [], [], none⟩)) = .ok .pPoll := by decide
theorem test_decode_dpoll : decode (.port (.cmd ⟨0b0010, [], 0, [], [], none⟩)) = .ok .dPoll := by decide
theorem test_decode_nset : decode (.port (.cmd ⟨0b0011, [], 0, [], [], some 7⟩)) = .ok (.nSet (some 7)) := by decide
theorem test_decode_enone : decode (.port (.cmd ⟨0b0100, [0x61], 0, [], [], none⟩)) = .ok (.eNone [0x61]) := by decide
theorem test_decode_eint : decode (.port (.cmd ⟨0b0101, [0x6D], 2, [5, 12], [], none⟩)) = .ok (.eInt [0x6D] [5, 12]) := by decide
theorem test_decode_efloat :
    decode (.port (.cmd ⟨0b0110, [0x67], 1, [0x3F800000], [], none⟩)) = .ok (.eFloat [0x67] [0x3F800000]) := by decide
theorem test_decode_estr :
    decode (.port (.cmd ⟨0b0111, [0x78], 2, [], [[], [0x61]], none⟩)) = .ok (.eStr [0x78] [[], [0x61]]) := by decide
theorem test_decode_reserved0 : decode (.port (.cmd ⟨0b0000, [], 0, [], [], none⟩)) = .ok .cmdReserved0 := by decide
theorem test_decode_reserved8 : decode (.port (.cmd ⟨0b1101, [], 0, [], [], none⟩)) = .ok (.cmdReserved8F 5) := by decide
theorem test_decode_count_mismatch :
    decode (.port (.cmd ⟨0b0101, [], 2, [5], [], none⟩)) = .error .countMismatch := by decide
-- R108, R102, R103, R107.
theorem test_decode_qpush :
    decode (.port (.qProducer 0b01 .receiver (.rxByte 0x41))) = .ok (.qPush .receiver (.rxByte 0x41)) := by decide
theorem test_decode_qpop : decode (.port (.qConsumer 0b10 .transmitter .txq)) = .ok (.qPop .transmitter .txq) := by decide
theorem test_decode_both_sides : decode (.port (.qProducer 0b11 .receiver (.rxByte 0x41))) =
    .ok (.qPush .receiver (.rxByte 0x41)) ∧ decode (.port (.qConsumer 0b11 .transmitter .txq)) =
    .ok (.qPop .transmitter .txq) := by decide
theorem test_decode_rx_push : decode (.port (.rx 0b1 0x7B)) = .ok (.rxPush 0x7B) := by decide
theorem test_decode_tx_pop : decode (.port (.tx 0b1)) = .ok .txPop := by decide
theorem test_decode_rst : decode (.port (.rst 0b1)) = .ok .rst := by decide
theorem test_decode_idle_ports : decode (.port (.rx 0 0x7B)) = .error .noRequest ∧ decode (.port (.tx 0)) = .error .noRequest ∧
    decode (.port (.rst 0)) = .error .noRequest := by decide

/-! ## The parser's rows: vectors P1 to P26 of 95_test_vectors.md 2.2 (`S = 8`) -/

theorem test_p1_ws_lbrace : regsAfter .pWsLbrace (parsing .waitStart 0 0 0 0 0) = some (1, 0, 0, 0, 0, 0) ∧
    (nextOf (exec .pWsLbrace fresh)).map State.scrGen = some 1 := by decide
theorem test_p2_ws_other : nextOf (exec (.pWsOther 0x7D) (parsing .waitStart 0 0 0 0 0)) =
    some (parsing .waitStart 0 0 0 0 0) := by decide
theorem test_p3_wp_p : regsAfter .pWpP (parsing .waitP 0 0 0 0 0) = some (2, 0, 0, 0, 0, 0) := by decide
theorem test_p4_wp_other : regsAfter (.pWpOther 0x7B) (parsing .waitP 0 0 0 0 0) = some (7, 0, 0, 0, 0, 0) ∧
    (nextOf (exec (.pWpOther 0x7B) (parsing .waitP 0 0 0 0 0))).map State.events =
      some [.malformed .waitP 0x7B] := by decide
theorem test_p6_wpc_colon : regsAfter .pWpcColon (parsing .waitPColon 0 5 0 0 0) = some (3, 0, 0, 0, 0, 0) := by decide
theorem test_p7_wpc_other : regsAfter (.pWpcOther 0x70) (parsing .waitPColon 0 0 0 0 0) = some (7, 0, 0, 0, 0, 0) := by decide
theorem test_p9_rp_other : regsAfter (.pRpOther 0x7D) (parsing .readPath 2 0 0 0 0) = some (3, 3, 0, 0, 0, 0) ∧
    (nextOf (exec (.pRpOther 0x7D) (parsing .readPath 2 0 0 0 0))).map (fun s => Memory.read s.scr 2) =
      some (some 0x7D) := by decide
theorem test_p10_rp_colon : regsAfter .pRpColon (parsing .readPath 2 0 0 0 0) = some (4, 3, 0, 2, 0, 0) := by decide
theorem test_p11_rp_colon_writes : (nextOf (exec .pRpColon { fresh with pstate := .readPath })).map State.scr =
    some [(0, 0x00)] := by decide
theorem test_p12_wd_d : regsAfter .pWdD (parsing .waitD 3 0 2 0 0) = some (5, 3, 0, 2, 0, 0) := by decide
theorem test_p13_wd_other : regsAfter (.pWdOther 0x78) (parsing .waitD 3 0 2 0 0) = some (7, 3, 0, 2, 0, 0) := by decide
theorem test_p14_wdc_colon : regsAfter .pWdcColon (parsing .waitDColon 3 0 2 0 0) = some (6, 3, 0, 2, 3, 0) := by decide
theorem test_p15_wdc_other : regsAfter (.pWdcOther 0x64) (parsing .waitDColon 3 0 2 0 0) = some (7, 3, 0, 2, 0, 0) := by decide
theorem test_p17_rd_other : regsAfter (.pRdOther 0x3A) (parsing .readData 4 0 2 3 0) = some (6, 5, 0, 2, 3, 0) ∧
    (nextOf (exec (.pRdOther 0x3A) (parsing .readData 4 0 2 3 0))).map (fun s => Memory.read s.scr 4) =
      some (some 0x3A) := by decide
theorem test_p18_rd_rbrace : regsAfter .pRdRbrace (parsing .readData 4 0 2 3 0) = some (0, 0, 0, 0, 0, 0) ∧
    (nextOf (exec .pRdRbrace (parsing .readData 4 0 2 3 0))).map (fun s => Memory.read s.fq.store 0) =
      some (some ⟨0, 2, 3, 1, 0⟩) := by decide
theorem test_p19_rd_rbrace_full :
    let s : State := { parsing .readData 4 0 2 3 0 with fq := ⟨[(0, ⟨0, 2, 3, 1, 0⟩)], 1, 0, 0, 0⟩ }
    regsAfter .pRdRbrace s = some (7, 0, 0, 0, 0, 0) ∧
    (nextOf (exec .pRdRbrace s)).map (fun t => (t.fq, t.events)) = some (s.fq, [.pushFull .fq, .frameqFull]) := by decide
theorem test_p21_er_lbrace : regsAfter .pErLbrace (parsing .error 3 0 2 0 0) = some (1, 0, 0, 0, 0, 0) := by decide
theorem test_p22_er_other : nextOf (exec (.pErOther 0x70) (parsing .error 3 0 2 0 0)) = some (parsing .error 3 0 2 0 0) := by decide
theorem test_p24_ovf : regsAfter (.pOvf 6 0x7D) (parsing .readData 8 0 2 3 0) = some (7, 0, 0, 0, 0, 0) := by decide
theorem test_p25_ovf_drops_lbrace : (nextOf ((parsing .readPath 8 0 0 0 0).parseByte 0x7B)).map regs =
    some (7, 0, 0, 0, 0, 0) := by decide
-- P28: the largest frame that fits; P29: one byte more is no frame.
theorem test_p28_largest_frame :
    (nextOf (fresh.parseBytes [0x7B, 0x70, 0x3A, 0x61, 0x62, 0x63, 0x3A, 0x64, 0x3A, 0x31, 0x32, 0x33, 0x7D])).map
      (fun s => (s.pstate, Memory.read s.fq.store 0)) = some (.waitStart, some ⟨0, 3, 4, 3, 1⟩) := by decide
theorem test_p29_frame_too_long :
    (nextOf (fresh.parseBytes [0x7B, 0x70, 0x3A, 0x61, 0x62, 0x63, 0x3A, 0x64, 0x3A, 0x31, 0x32, 0x33, 0x34, 0x7D])).map
      (fun s => (s.pstate, s.fq.prod)) = some (.error, 0) := by decide

/-! ## Byte classes (2.3) -/

theorem test_digit07_keeps_scan : (nextOf (exec (.clsDigit07 5) fresh)).map State.scan = some ⟨false, false⟩ := by decide
theorem test_digit89_keeps_scan : (nextOf (exec (.clsDigit89 1) fresh)).map State.scan = some ⟨false, false⟩ := by decide
theorem test_minus_keeps_scan : (nextOf (exec .clsMinus fresh)).map State.scan = some ⟨false, false⟩ := by decide
theorem test_comma_keeps_scan : (nextOf (exec .clsComma fresh)).map State.scan = some ⟨false, false⟩ := by decide
theorem test_dot_sets_scan : (nextOf (exec .clsDot fresh)).map State.scan = some ⟨false, true⟩ := by decide
theorem test_other_sets_scan : (nextOf (exec (.clsOther 0x2B) fresh)).map State.scan = some ⟨true, false⟩ := by decide
theorem test_classify_vectors :
    classify [0x31, 0x2D, 0x32] = .int ∧ classify [0x2E] = .float ∧ classify [0x31, 0x2C, 0x61] = .string ∧
    classify [0x31, 0x65, 0x35] = .string ∧ classify [0x31, 0x2C, 0x32, 0x2E, 0x35] = .float := by decide

/-! ## Numerals and texts (2.4, 2.5, 2.7, 2.8) -/

theorem test_parse_int_vectors :
    parseInt 0 [] = (0, 0) ∧ parseInt 0 [0x2D, 0x2D, 0x35] = (0, 0) ∧ parseInt 0 [0x2D, 0x35] = (BitVec.ofInt 32 (-5), 0) ∧
    parseInt 0 [0x35, 0x2D, 0x33] = (5, 0) ∧ parseInt 0 [0x30, 0x30, 0x37] = (7, 0) := by decide
theorem test_parse_int_beyond_range_draws :
    (parseInt 4 [0x32, 0x31, 0x34, 0x37, 0x34, 0x38, 0x33, 0x36, 0x34, 0x38]).2 = 5 := by decide +kernel
theorem test_parse_float_vectors :
    parseFloat 0 [0x2D, 0x2E] = (0, 0) ∧ parseFloat 0 [0x35, 0x2E] = (0x40A00000, 0) ∧
    parseFloat 0 [0x2D, 0x2E, 0x35] = (0xBF000000, 0) ∧ parseFloat 0 [0x31, 0x2E, 0x32, 0x2E, 0x33] = (0x3F99999A, 0) ∧
    parseFloat 0 [0x2D, 0x30] = (0x80000000, 0) ∧ parseFloat 0 [0x30, 0x2E, 0x30, 0x31] = (0x3C23D70A, 0) := by decide +kernel
theorem test_fmt_int_vectors :
    fmtInt 0 = [0x30] ∧ fmtInt (BitVec.ofInt 32 (-120)) = [0x2D, 0x31, 0x32, 0x30] ∧
    fmtInt 0x80000000 = [0x2D, 0x32, 0x31, 0x34, 0x37, 0x34, 0x38, 0x33, 0x36, 0x34, 0x38] := by decide +kernel
-- 1.9995 writes as 2.000, an exact tie rounds up, a negative value that rounds to zero keeps its sign.
theorem test_fmt_float_vectors :
    fmtFloat 0x3FFFEF9E = [0x32, 0x2E, 0x30, 0x30, 0x30] ∧ fmtFloat 0x3D800000 = [0x30, 0x2E, 0x30, 0x36, 0x33] ∧
    fmtFloat 0xB9D1B717 = [0x2D, 0x30, 0x2E, 0x30, 0x30, 0x30] ∧ fmtFloat 0x80000000 = [0x30, 0x2E, 0x30, 0x30, 0x30] ∧
    fmtFloat 0x4479FFF8 = [0x31, 0x30, 0x30, 0x30, 0x2E, 0x30, 0x30, 0x30] := by decide +kernel
theorem test_float_infinity_and_nan : floatInRange 0x7F800000 = false ∧ floatInRange 0x7FC00000 = false := by decide +kernel

/-! ## Queues: vectors Q1 to Q12 (`C = 4`) and the ports -/

/-- RXQ with given indices in the order of the vectors: prod, cons, prod_seen, cons_seen. -/
def rxAt (p c ps cs : Nat) (store : Memory Byte) : State := { fresh with rx := ⟨store, p, c, ps, cs⟩ }

/-- TXQ with given indices. -/
def txAt (p c ps cs : Nat) (store : Memory Byte) : State := { fresh with tx := ⟨store, p, c, ps, cs⟩ }

theorem test_q2_rx_push : (nextOf (exec (.rxPush 0x41) fresh)).map (fun s => (s.rx, s.outs)) =
    some (⟨[(0, 0x41)], 1, 0, 0, 0⟩, [.pushOk .rxq true]) := by decide
theorem test_q7_rx_push_full : (nextOf (exec (.rxPush 0x41) (rxAt 3 1 1 0 []))).map (fun s => (s.rx.prod, s.outs, s.events)) =
    some (3, [.pushOk .rxq false], [.pushFull .rxq]) := by decide
theorem test_q8_qpush_wraps : (nextOf (exec (.qPush .receiver (.rxByte 0x44)) (rxAt 3 1 1 1 []))).map State.rx =
    some ⟨[(3, 0x44)], 0, 1, 1, 1⟩ := by decide
theorem test_qpush_foreign_role : faultOf (exec (.qPush .transmitter (.rxByte 0x44)) fresh) = some .role := by decide
theorem test_q5_qpop : (nextOf (exec (.qPop .parser .rxq) (rxAt 1 0 1 0 [(0, 0x41)]))).map (fun s => (s.rx.cons, s.outs)) =
    some (1, [.popByte .rxq (some 0x41)]) := by decide
theorem test_qpop_unwritten_slot : faultOf (exec (.qPop .parser .rxq) (rxAt 1 0 1 0 [])) = some .uninitRead := by decide
theorem test_q3_tx_pop_unseen : (nextOf (exec .txPop (txAt 1 0 0 0 [(0, 0x41)]))).map (fun s => (s.tx.cons, s.outs)) =
    some (0, [.popByte .txq none]) := by decide
theorem test_q9_tx_pop_wraps : (nextOf (exec .txPop (txAt 0 3 0 0 [(3, 0x41)]))).map (fun s => (s.tx.cons, s.outs)) =
    some (0, [.popByte .txq (some 0x41)]) := by decide

/-! ## Commands: 2.10, 2.11 and the examples of R160, R170, R206 to R209 -/

/-- A state with one view in FQ over the scratch bytes of `<path>\0<data>\0`. -/
def queued (pathLen : Nat) (bytes : List Byte) : State :=
  { fresh with
    scrGen := 1
    fq := ⟨[(0, ⟨0, pathLen, pathLen + 1, bytes.length - pathLen - 2, 1⟩)], 1, 0, 0, 0⟩
    scr := (List.range bytes.length).zip bytes }

theorem test_ppoll_starts : (nextOf (exec .pPoll fresh)).map State.pollActive = some true := by decide
theorem test_ppoll_busy : refusalOf (exec .pPoll { fresh with encRem := [0x7D] }) = some .commandBusy := by decide
theorem test_poll_iteration :
    let s : State := { rxAt 1 0 1 0 [(0, 0x7B)] with pollActive := true, sched := [.task, .task] }
    (nextOf (Host.Core.run Sys2Proof.core 2 s)).map (fun t => (t.pstate, t.rx.cons, t.pollActive, t.outs)) =
      some (.waitP, 1, false, [.cmdDone true]) := by decide
theorem test_dpoll_int : (nextOf (exec .dPoll (queued 1 [0x61, 0x00, 0x2D, 0x37, 0x00]))).map State.outs =
    some [.call ⟨0, 10, .int, 1, [.int (BitVec.ofInt 32 (-7))]⟩, .cmdDone true] := by decide +kernel
theorem test_dpoll_string : (nextOf (exec .dPoll (queued 1 [0x62, 0x00, 0x61, 0x2C, 0x62, 0x00]))).map
      (fun s => (Memory.read s.scr 3, s.outs)) =
    some (some 0x00, [.call ⟨1, 11, .string, 2, [.str 2 1 [0x61], .str 4 1 [0x62]]⟩, .cmdDone true]) := by decide +kernel
theorem test_nset_overwrites : (nextOf (exec (.nSet none) { fresh with ncb := some 7 })).map State.ncb = some none := by decide
theorem test_nset_registers : (nextOf (exec (.nSet (some 7)) fresh)).map (fun s => (s.ncb, s.outs)) =
    some (some 7, [.cmdDone true]) := by decide
theorem test_enone_frame : (nextOf (exec (.eNone []) fresh)).map State.encRem =
    some [0x7B, 0x70, 0x3A, 0x3A, 0x64, 0x3A, 0x7D] := by decide
theorem test_eint_frame : (nextOf (exec (.eInt [0x6D] [BitVec.ofInt 32 (-5), 12]) fresh)).map State.encRem =
    some [0x7B, 0x70, 0x3A, 0x6D, 0x3A, 0x64, 0x3A, 0x2D, 0x35, 0x2C, 0x31, 0x32, 0x7D] := by decide +kernel
theorem test_eint_too_many : refusalOf (exec (.eInt [] [1, 2, 3]) fresh) = some .tooManyValues := by decide
theorem test_efloat_frame : (nextOf (exec (.eFloat [0x67] [0x3FFFEF9E]) fresh)).map State.encRem =
    some [0x7B, 0x70, 0x3A, 0x67, 0x3A, 0x64, 0x3A, 0x32, 0x2E, 0x30, 0x30, 0x30, 0x7D] := by decide +kernel
theorem test_efloat_nan : refusalOf (exec (.eFloat [] [0x7FC00000]) fresh) = some .floatRange := by decide +kernel
theorem test_estr_frame : (nextOf (exec (.eStr [0x78] [[], []]) fresh)).map State.encRem =
    some [0x7B, 0x70, 0x3A, 0x78, 0x3A, 0x64, 0x3A, 0x2C, 0x7D] := by decide
theorem test_emit_notifies :
    let s : State := { fresh with encRem := [0x7B, 0x70], ncb := some 1, sched := [.task] }
    (nextOf (step s)).map (fun t => (t.tx.prod, t.encRem, t.outs)) = some (1, [0x70], [.notify 1]) := by decide
theorem test_emit_aborts :
    let s : State := { txAt 3 0 0 0 [] with encRem := [0x70], encSent := 3, sched := [.task] }
    (nextOf (step s)).map (fun t => (t.encRem, t.events, t.outs)) =
      some ([], [.pushFull .txq, .encAbort 3], [.cmdDone false]) := by decide
theorem test_reserved0 : (nextOf (exec .cmdReserved0 fresh)).map (fun s => (s.events, s.outs)) =
    some ([.reservedOp 0], [.cmdDone false]) := by decide
theorem test_reserved_waits : refusalOf (exec .cmdReserved0 { fresh with pollActive := true }) = some .commandBusy ∧
    refusalOf (exec (.cmdReserved8F 0) { fresh with encRem := [0x7D] }) = some .commandBusy := by decide
theorem test_reserved8 : (nextOf (exec (.cmdReserved8F 7) fresh)).map (fun s => (s.events, s.outs)) =
    some ([.reservedOp 15], [.cmdDone false]) := by decide
-- The example of R270.
theorem test_reset : (nextOf (exec .rst { rxAt 5 2 5 2 [(2, 0x41)] with pstate := .readData, w := 9 })) = some fresh := by decide
theorem test_reset_busy : faultOf (exec .rst { fresh with pollActive := true }) = some .resetBusy := by decide

/-! ## Synchronisers (Q4, Q11) and the word placed for the host -/

theorem test_q4_syncp : (nextOf (step { rxAt 1 0 0 0 [(0, 0x41)] with sched := [.syncP .rxq] })).map (fun s => s.rx.prodSeen) =
    some 1 := by decide
theorem test_q11_syncc_disabled : (nextOf (step { rxAt 2 2 2 2 [] with sched := [.syncC .rxq] })).map State.rx =
    some ⟨[], 2, 2, 2, 2⟩ := by decide
theorem test_fetch_word_parser :
    (nextOf (step (State.reset.withFetchWord 16 0x170))).map State.pstate = some .waitPColon := by decide
theorem test_fetch_word_command :
    (nextOf (step (State.reset.withFetchWord 8 0x01))).map State.pollActive = some true := by decide

/-! ## Witnesses: states and operands that meet the hypotheses of each obligation, a clause at a time -/

/-- A state in the middle of a frame, with a byte in sight in RXQ at the wrap of its indices, a queued view, and a byte in TXQ. -/
def midFrame : State :=
  { parsing .readData 4 0 2 3 0 with
    scrGen := 2
    rx := ⟨[(0, 0x31), (3, 0x7D)], 1, 3, 0, 3⟩
    fq := ⟨[(1, ⟨0, 1, 2, 4, 1⟩)], 0, 1, 0, 0⟩
    tx := ⟨[(2, 0x7B)], 3, 2, 2, 1⟩
    ncb := some 7 }

/-- The invariant holds in the middle of a frame. -/
theorem midFrame_inv : midFrame.Inv where
  rx := by decide
  fq := by decide
  tx := by decide
  views := by decide
  layout := (by decide : midFrame.pathStart = 0 ∧ midFrame.dataStart = midFrame.pathLen + 1 ∧
    midFrame.dataStart ≤ midFrame.w ∧ midFrame.w ≤ midFrame.cfg.size ∧
    Memory.read midFrame.scr midFrame.pathLen = some sentinel ∧ midFrame.scrWritten midFrame.w)
  scrWf := by decide
  scrWithin := by decide
  task := by decide

/-- Changes of the running operation, the slot and the schedule that keep one task operation running keep the invariant. -/
theorem inv_with {s : State} (h : s.Inv) (a : Bool) (r : List Byte) (n : Nat) (l : List Turn)
    (ht : (a = true → r = []) ∧ (r = [] → n = 0)) :
    ({ s with pollActive := a, encRem := r, encSent := n, sched := l } : State).Inv :=
  ⟨h.rx, h.fq, h.tx, h.views, h.layout, h.scrWf, h.scrWithin, ht⟩

theorem witness_DecodeInvertsEncode :
    (Instr.pRpOther 0x3B).wf = true ∧ (Instr.clsOther 0x2F).wf = true ∧ (Instr.clsOther 0x3A).wf = true ∧
    (Instr.eInt [] [0x80000000]).wf = true ∧ (Instr.eStr [] []).wf = true := by decide
theorem witness_DecodeYieldsWellFormed : decode (.pbyte false 0x3FF) = .ok (.pRpOther 0xFF) := by decide
/-- A list as long as the port can carry. -/
def longest (α : Type) (x : α) : List α := List.replicate 65535 x

theorem longest_length (α : Type) (x : α) : (longest α x).length = 65535 := List.length_replicate

theorem witness_CommandCodesDecode : ∃ c : CmdSig, c.path.length < 2 ^ 16 ∧ c.count < 2 ^ 16 ∧
    c.count = c.words.length ∧ c.count = c.strs.length ∧ c.count = 65535 ∧ ∀ t ∈ c.strs, t.length < 2 ^ 16 := by
  refine ⟨⟨0, longest Byte 0x61, 65535, longest Word 0, longest (List Byte) [], none⟩, ?_, ?_, ?_, ?_, ?_, ?_⟩
  · rw [longest_length]; omega
  · change 65535 < 2 ^ 16; omega
  · rw [longest_length]
  · rw [longest_length]
  · rfl
  · intro t ht
    rw [List.eq_of_mem_replicate ht]
    exact Nat.two_pow_pos 16
theorem witness_StepRunsDecodedInstruction :
    (let s : State := { fresh with sched := [.port (.rx 1 0x7B)] }
     s.sched = .port (.rx 1 0x7B) :: [] ∧ PortSig.external (.rx 1 0x7B) = true ∧
       decode (.port (.rx 1 0x7B)) = .ok (.rxPush 0x7B)) ∧
    (let s : State := { rxAt 0 3 0 3 [(3, 0x7B)] with pollActive := true, sched := [.task] }
     s.sched = .task :: [] ∧ s.pollActive = true ∧
       s.rx.pop s.cfg.rx = .ok (some (0x7B, ⟨[(3, 0x7B)], 0, 0, 0, 3⟩)) ∧ decode (s.byteSignal 0x7B) = .ok .pWsLbrace) := by decide
theorem witness_SynchroniserSteps : ∀ turn ∈ [Turn.syncP .rxq, .syncC .rxq, .syncP .txq, .syncC .txq, .syncP .fq, .syncC .fq],
    ({ rxAt 0 3 3 2 [] with sched := [turn] } : State).sched = turn :: [] := by decide
theorem witness_IdleTurns :
    fresh.sched = [] ∧ decode (.port (.rx 0 0x7B)) = .error .noRequest ∧
    decode (.port (.cmd ⟨5, [], 1, [], [], none⟩)) = .error .countMismatch ∧
    (let s : State := { fresh with sched := [.task] }
     s.sched = .task :: [] ∧ s.pollActive = false ∧ s.encRem = []) := by decide
theorem witness_IdleTurns_tooLong : decode (.port (.cmd ⟨4, long Byte 0x61, 0, [], [], none⟩)) = .error .tooLong := by
  have h : selectCmd 4#4 = some ⟨"E.NONE", 0x4, 0xF, fun c => .eNone c.path⟩ := rfl
  simp [decode, decodePort, decodeCmd, h, CmdSig.countOk, checkFit, Instr.wf, fitsPort, long_length]
theorem witness_QPushCompletes :
    (rxAt 3 1 1 1 []).rx.prod < cfg.cRx ∧ (3 + 1) % cfg.cRx = (rxAt 3 1 1 0 []).rx.consView cfg.rx ∧
    midFrame.fq.prod < midFrame.cfg.cFq ∧ (midFrame.fq.prod + 1) % midFrame.cfg.cFq = midFrame.fq.cons ∧
    midFrame.tx.prod < midFrame.cfg.cTx ∧ (midFrame.tx.prod + 1) % midFrame.cfg.cTx ≠ midFrame.tx.consView midFrame.cfg.tx := by
  decide
theorem witness_QPopCompletes :
    fresh.rx.prodView fresh.cfg.rx = fresh.rx.cons ∧ fresh.fq.prod = fresh.fq.cons ∧
    fresh.tx.prodView fresh.cfg.tx = fresh.tx.cons ∧
    (midFrame.rx.prodView midFrame.cfg.rx ≠ midFrame.rx.cons ∧ midFrame.rx.cons < midFrame.cfg.cRx ∧
      Memory.read midFrame.rx.store midFrame.rx.cons = some 0x7D) ∧
    (midFrame.fq.prod ≠ midFrame.fq.cons ∧ midFrame.fq.cons < midFrame.cfg.cFq ∧
      Memory.read midFrame.fq.store midFrame.fq.cons = some ⟨0, 1, 2, 4, 1⟩) ∧
    (let s := txAt 0 3 0 3 [(3, 0x41)]
     s.tx.prodView s.cfg.tx ≠ s.tx.cons ∧ s.tx.cons < s.cfg.cTx ∧ Memory.read s.tx.store s.tx.cons = some 0x41) := by decide
theorem witness_ContextSeparation : ∀ turn ∈ [Turn.port (.rx 1 0x41), .port (.tx 1), .syncP .rxq, .syncC .txq],
    turn.outsideTask = true ∧ (nextOf (step { midFrame with sched := [turn] })).isSome = true := by decide
theorem witness_ForeignRoleFaults :
    Role.intruder ≠ producerOf (itemQueue (.rxByte 0x41)) ∧ Role.parser ≠ consumerOf .fq ∧
    (0x3 : BitVec 2) &&& 0x1 = 0x1 ∧ (0x3 : BitVec 2) &&& 0x2 = 0x2 ∧
    (let s : State := { fresh with sched := [.port (.qProducer 0x3 .encoder (.txByte 0x41))] }
     s.sched = .port (.qProducer 0x3 .encoder (.txByte 0x41)) :: []) ∧
    (let s : State := { fresh with sched := [.port (.qConsumer 0x3 .dispatcher .fq)] }
     s.sched = .port (.qConsumer 0x3 .dispatcher .fq) :: []) := by decide
theorem witness_QueueInvariantKept :
    1 < midFrame.cfg.rx.cap ∧ Queue.inv midFrame.cfg.rx midFrame.rx ∧
    midFrame.rx.pop midFrame.cfg.rx = .ok (some (0x7D, ⟨[(0, 0x31), (3, 0x7D)], 1, 0, 0, 3⟩)) ∧
    midFrame.rx.push midFrame.cfg.rx 0x32 = .ok (some ⟨[(0, 0x31), (1, 0x32), (3, 0x7D)], 2, 3, 0, 3⟩) := by decide
theorem witness_FifoOrder : 1 < (⟨2, .synchronised⟩ : Geometry).cap ∧
    (QRun.ops ⟨2, .synchronised⟩ (QRun.start Byte) [.push 0x41, .push 0x42, .syncP, .pop]).popped = [0x41] := by decide
theorem witness_LiveElements :
    1 < midFrame.cfg.rx.cap ∧ Queue.inv midFrame.cfg.rx midFrame.rx ∧ midFrame.rx.live midFrame.cfg.rx = [0x7D, 0x31] ∧
    midFrame.rx.fullP midFrame.cfg.rx = false ∧ midFrame.rx.emptyC midFrame.cfg.rx = false := by decide
-- The Immediate queue is FQ after one frame has come and gone: its copies stand at 0.
theorem witness_CapacityBound :
    ∀ p ∈ [((⟨4, .synchronised⟩, ⟨[(0, 0x40)], 1, 1, 1, 1⟩) : Geometry × Queue Byte), (⟨2, .immediate⟩, ⟨[(0, 0x40)], 1, 1, 0, 0⟩)],
    let g := p.1
    let q := p.2
    1 < g.cap ∧ Queue.inv g q ∧ q.prod = q.cons ∧ (g.sync = .synchronised → q.prodSeen = q.cons ∧ q.consSeen = q.cons) ∧
    (QOp.pop : QOp Byte) ∉ [.push 0x41, .syncP, .syncC] ∧ ((0x41 : Byte) :: List.replicate (g.cap - 2) 0x42).length = g.cap - 1 := by
  decide
theorem witness_StepKeepsConfigurationAndRecord :
    (nextOf (step { queued 1 [0x61, 0x00, 0x37, 0x00] with sched := [.port (.cmd (.ofOp 2))] })).map
      (fun t => t.outs.filter Out.isCall) = some [.call ⟨0, 10, .int, 1, [.int 7]⟩] ∧
    (nextOf (step { fresh with encRem := [0x7B], ncb := some 7, sched := [.task] })).map
      (fun t => t.outs.filter Out.isNotify) = some [.notify 7] := by decide +kernel
theorem witness_ImmediateIsSpecialCase :
    let q : Queue Byte := ⟨[(0, 0x41)], 1, 0, 1, 0⟩
    1 < 2 ∧ q.prod < 2 ∧ q.cons < 2 ∧ q.prodSeen = q.prod ∧ q.consSeen = q.cons ∧
    q.push ⟨2, .synchronised⟩ 0x42 = .ok none ∧
    q.push ⟨3, .synchronised⟩ 0x42 = .ok (some ⟨[(0, 0x41), (1, 0x42)], 2, 0, 1, 0⟩) ∧
    q.pop ⟨2, .synchronised⟩ = .ok (some (0x41, ⟨[(0, 0x41)], 1, 1, 1, 0⟩)) := by decide
theorem witness_OverflowGuardDropsByte : (parsing .readData 8 0 2 3 0).cfg.size ≤ (parsing .readData 8 0 2 3 0).w := by decide
/-- The invariant holds with the scratch buffer full. -/
theorem witness_OverflowGuardDropsByte_inv : (parsing .readData 8 0 2 3 0).Inv where
  rx := by decide
  fq := by decide
  tx := by decide
  views := by decide
  layout := (by decide : (parsing .readData 8 0 2 3 0).pathStart = 0 ∧
    (parsing .readData 8 0 2 3 0).dataStart = (parsing .readData 8 0 2 3 0).pathLen + 1 ∧
    (parsing .readData 8 0 2 3 0).dataStart ≤ (parsing .readData 8 0 2 3 0).w ∧
    (parsing .readData 8 0 2 3 0).w ≤ (parsing .readData 8 0 2 3 0).cfg.size ∧
    Memory.read (parsing .readData 8 0 2 3 0).scr (parsing .readData 8 0 2 3 0).pathLen = some sentinel ∧
    (parsing .readData 8 0 2 3 0).scrWritten (parsing .readData 8 0 2 3 0).w)
  scrWf := by decide
  scrWithin := by decide
  task := by decide
/-- The parser's rows run below the buffer's size: `w = S - 1` in every state. FrameStartRows, TagRows, MarkRows and the others of their
shape need no more. -/
theorem witness_row_states : ∀ st ∈ [PState.waitStart, .waitP, .waitPColon, .readPath, .waitD, .waitDColon, .readData, .error],
    (parsing st 7 0 0 0 0).w < (parsing st 7 0 0 0 0).cfg.size ∧ (parsing st 7 0 0 0 0).pstate = st := by decide
theorem witness_FrameStartRows : (parsing .error 7 0 0 0 0).w < cfg.size ∧ fresh.w < fresh.cfg.size ∧
    fresh.pstate = .waitStart ∧ (parsing .error 7 0 0 0 0).pstate = .error := by decide
theorem witness_IgnoredByteRows : fresh.w < fresh.cfg.size ∧ fresh.pstate = .waitStart ∧ (0x7C : Byte) ≠ 0x7B ∧
    (parsing .error 7 0 0 0 0).pstate = .error ∧ (0x7A : Byte) ≠ 0x7B := by decide
theorem witness_TagRows : (parsing .waitP 0 0 0 0 0).w < cfg.size ∧ (parsing .waitP 0 0 0 0 0).pstate = .waitP ∧
    (parsing .waitD 7 0 6 0 0).w < cfg.size ∧ (parsing .waitD 7 0 6 0 0).pstate = .waitD := by decide
theorem witness_MismatchRows : (parsing .waitD 7 0 6 0 0).w < cfg.size ∧ (0x71 : Byte) ≠ 0x70 ∧ (0x3B : Byte) ≠ 0x3A ∧
    (0x63 : Byte) ≠ 0x64 ∧ (parsing .waitDColon 7 0 6 0 0).w < cfg.size := by decide
theorem witness_MarkRows : (parsing .waitPColon 0 0 0 0 0).w < cfg.size ∧ (parsing .waitDColon 7 0 6 0 0).w < cfg.size ∧
    (parsing .waitPColon 0 0 0 0 0).pstate = .waitPColon ∧ (parsing .waitDColon 7 0 6 0 0).pstate = .waitDColon := by decide
theorem witness_MarkRows_inv_path : (parsing .waitPColon 0 0 0 0 0).Inv where
  rx := by decide
  fq := by decide
  tx := by decide
  views := by decide
  layout := (by decide : (parsing .waitPColon 0 0 0 0 0).w = 0)
  scrWf := by decide
  scrWithin := by decide
  task := by decide
theorem witness_MarkRows_inv_data : (parsing .waitDColon 7 0 6 0 0).Inv where
  rx := by decide
  fq := by decide
  tx := by decide
  views := by decide
  layout := (by decide : (parsing .waitDColon 7 0 6 0 0).pathStart = 0 ∧
    (parsing .waitDColon 7 0 6 0 0).w = (parsing .waitDColon 7 0 6 0 0).pathLen + 1 ∧
    (parsing .waitDColon 7 0 6 0 0).w ≤ (parsing .waitDColon 7 0 6 0 0).cfg.size ∧
    Memory.read (parsing .waitDColon 7 0 6 0 0).scr (parsing .waitDColon 7 0 6 0 0).pathLen = some sentinel ∧
    (parsing .waitDColon 7 0 6 0 0).scrWritten (parsing .waitDColon 7 0 6 0 0).w)
  scrWf := by decide
  scrWithin := by decide
  task := by decide
/-- The view of the frame that ends is laid out as R159 says in a state that meets the invariant. -/
theorem witness_FrameEndRow_inv : midFrame.Inv ∧ midFrame.pstate = .readData := ⟨midFrame_inv, by decide⟩
theorem witness_PathEndRow : (parsing .readPath 7 0 0 0 0).w < cfg.size ∧ (parsing .readPath 7 0 0 0 0).pstate = .readPath := by decide
theorem witness_AppendRows :
    ((parsing .readPath 7 0 0 0 0).w < cfg.size ∧ (parsing .readPath 7 0 0 0 0).pstate = .readPath ∧ (0x7D : Byte) ≠ 0x3A) ∧
    ((parsing .readData 7 0 2 3 0).w < cfg.size ∧ (parsing .readData 7 0 2 3 0).pstate = .readData ∧ (0x3A : Byte) ≠ 0x7D) := by decide
theorem witness_FrameEndRow : midFrame.w < midFrame.cfg.size ∧ midFrame.pstate = .readData ∧
    midFrame.fq.prod < midFrame.cfg.cFq ∧ (midFrame.fq.prod + 1) % midFrame.cfg.cFq = midFrame.fq.cons ∧
    (fresh.fq.prod + 1) % fresh.cfg.cFq ≠ fresh.fq.cons := by decide
theorem witness_RowsRunWhereSelected :
    isParserRow .pRdRbrace = true ∧ decode (midFrame.byteSignal 0x7D) = .ok .pRdRbrace ∧
    isParserRow (.pOvf 0 0x41) = true ∧ ∀ c : Byte, decode (fresh.byteSignal c) ≠ .ok .pRdRbrace := by
  refine ⟨by decide, by decide, by decide, ?_⟩
  intro c h
  have := congrArg (fun r => match r with | .ok i => (i.row).1 | .error _ => "") h
  revert this
  revert c
  decide +kernel
theorem witness_ParserTouchesNothingElse : midFrame.fq.prod < midFrame.cfg.cFq := by decide
theorem witness_ErrorExit :
    (let s : State := { rxAt 1 0 1 0 [(0, 0x7B)] with pstate := .error, pollActive := true, sched := [.task] }
     s.pstate = .error ∧ (nextOf (step s)).map State.pstate = some .waitP) ∧
    (let s : State := { fresh with pstate := .error, sched := [.port (.rst 1)] }
     s.pstate = .error ∧ (nextOf (step s)).map State.pstate = some .waitStart) := by decide
theorem witness_ErrorEntry : ∀ st ∈ [(PState.waitP, 0), (.waitPColon, 0), (.waitD, 7), (.waitDColon, 7), (.readPath, 8)],
    let s : State := { parsing st.1 st.2 0 0 0 0 with
      rx := ⟨[(0, 0x7B)], 1, 0, 1, 0⟩, pollActive := true, sched := [.task] }
    s.pstate ≠ .error ∧ (nextOf (step s)).map State.pstate = some .error := by decide
theorem witness_ErrorEntry_frameqFull :
    let s : State := { midFrame with pollActive := true, sched := [.task] }
    s.pstate ≠ .error ∧ (nextOf (step s)).map State.pstate = some .error := by decide
theorem witness_FrameRoundTrip :
    let path : List Byte := [0x61, 0x7D]
    let texts : List (List Byte) := [[0x31], [0x3A]]
    fresh.pstate = .waitStart ∧ (parsing .error 7 0 0 0 0).pstate = .error ∧ (parsing .error 7 0 0 0 0).w < cfg.size ∧
    0x3A ∉ path ∧ (∀ t ∈ texts, 0x7D ∉ t) ∧ path.length + (joinItems texts).length + 3 = fresh.cfg.size ∧
    fresh.fq.prod < fresh.cfg.cFq ∧ (fresh.fq.prod + 1) % fresh.cfg.cFq ≠ fresh.fq.cons := by decide
theorem witness_OverflowRecovery : (parsing .readPath 8 0 0 0 0).cfg.size ≤ (parsing .readPath 8 0 0 0 0).w ∧
    (0x7B : Byte) ∉ [0x7D, 0x7A] := by decide
theorem witness_StepKeepsInvariant : midFrame.Inv ∧
    (nextOf (step { midFrame with sched := [.port (.tx 1)] })).isSome = true ∧
    ({ midFrame with sched := [.port (.tx 1)] } : State).Inv :=
  ⟨midFrame_inv, by decide, inv_with midFrame_inv false [] 0 _ (by decide)⟩
theorem witness_NoUnwrittenRead : ({ midFrame with pollActive := true, encRem := [], encSent := 0, sched := [.task] } : State).Inv :=
  inv_with midFrame_inv true [] 0 _ (by decide)
theorem witness_PollIterates :
    fresh.idle ∧
    (let s : State := { midFrame with pollActive := true, sched := [.task] }
     s.sched = .task :: [] ∧ s.pollActive = true ∧ s.rx.prodView s.cfg.rx ≠ s.rx.cons ∧ s.rx.cons < s.cfg.cRx ∧
       Memory.read s.rx.store s.rx.cons = some 0x7D) ∧
    (let s : State := { fresh with pollActive := true, sched := [.task] }
     s.sched = .task :: [] ∧ s.pollActive = true ∧ s.rx.prodView s.cfg.rx = s.rx.cons) := by decide
theorem witness_PollDrainsVisible :
    let s : State := { midFrame with pollActive := true, encRem := [], encSent := 0, sched := [.task, .task, .syncP .rxq] }
    s.Inv ∧ s.pollActive = true ∧ s.sched = List.replicate (s.rx.visible s.cfg.rx + 1) .task ++ [.syncP .rxq] :=
  ⟨inv_with midFrame_inv true [] 0 _ (by decide), by decide, by decide⟩
theorem test_largest_float_in_range : floatInRange 0x4EFFFFFF = true := by decide +kernel
theorem test_two_to_31_out_of_range : floatInRange 0x4F000000 = false := by decide +kernel
theorem witness_BusyCommandsRefused : ({ fresh with pollActive := true } : State).pollActive = true ∧
    ({ fresh with encRem := [0x7D] } : State).encRem ≠ [] := by decide
theorem witness_ReservedCodesChangeNothing : fresh.idle ∧ ∀ op ∈ [(0x0 : BitVec 4), 0x8, 0xF],
    ({ fresh with sched := [.port (.cmd (.ofOp op))] } : State).sched = .port (.cmd (.ofOp op)) :: [] ∧
    ({ fresh with sched := [.port (.cmd (.ofOp op))] } : State).idle ∧
    ((CmdSig.ofOp op).op = 0x0 ∨ 0x8 ≤ (CmdSig.ofOp op).op) := by decide
theorem witness_NSetWritesSlot : fresh.idle ∧ ({ fresh with encRem := [0x7D] } : State).encRem ≠ [] := by decide
theorem witness_EncoderOperationsStart :
    (fresh.idle ∧ [(1 : Word), 2].length ≤ fresh.cfg.maxItems ∧ fresh.cfg.maxItems < [(1 : Word), 2, 3].length ∧
      [[], [(0x61 : Byte)]].length ≤ fresh.cfg.maxItems ∧ fresh.cfg.maxItems < [[], [], [(0x61 : Byte)]].length) ∧
    (∀ n, ∀ x ∈ List.replicate n (0x4EFFFFFF : Word), floatInRange x = true) ∧
    (∃ x ∈ [(0x4F000000 : Word)], floatInRange x = false) :=
  ⟨by decide, fun n x hx => by rw [List.eq_of_mem_replicate hx]; exact test_largest_float_in_range,
    ⟨_, List.mem_singleton.2 rfl, test_two_to_31_out_of_range⟩⟩
theorem witness_MatchRouteFirst : matchRoute cfg.routes [0x62] = some (1, ⟨[0x62], .string, 11⟩) ∧
    matchRoute cfg.routes [0x42] = none := by decide
theorem witness_EmitOneByte :
    let s : State := { midFrame with encRem := [0x7B, 0x7D], sched := [.task] }
    s.sched = .task :: [] ∧ s.pollActive = false ∧ s.encRem = 0x7B :: [0x7D] ∧ s.tx.prod < s.cfg.cTx ∧
    (txAt 3 0 0 0 []).tx.prod < cfg.cTx ∧ (3 + 1) % cfg.cTx = (txAt 3 0 0 0 []).tx.consView cfg.tx := by decide
theorem witness_EncoderRunPrefix :
    (let s : State := { midFrame with pollActive := false, encRem := [0x7D], encSent := 2, sched := [.task] }
     s.Inv ∧ s.pollActive = false ∧ s.encRem ≠ [] ∧ s.encRem.length ≤ s.tx.room s.cfg.tx ∧
       s.sched = List.replicate s.encRem.length .task ++ []) ∧
    (let s : State := { midFrame with pollActive := false, encRem := [0x3A, 0x7D], encSent := 2, sched := [.task, .task] }
     s.Inv ∧ s.pollActive = false ∧ s.encRem ≠ [] ∧ s.tx.room s.cfg.tx < s.encRem.length ∧
       s.sched = List.replicate (s.tx.room s.cfg.tx + 1) .task ++ []) :=
  ⟨⟨inv_with midFrame_inv false [0x7D] 2 _ (by decide), by decide, by decide, by decide, by decide⟩,
   ⟨inv_with midFrame_inv false [0x3A, 0x7D] 2 _ (by decide), by decide, by decide, by decide, by decide⟩⟩
theorem witness_IntegerTextRoundTrip : [(0x80000000 : Word), 0].map Val.int ≠ [] ∧
    classify (joinItems ([(0x80000000 : Word), 0].map fmtInt)) = .int := by decide +kernel
-- 0x3D800000 is 0.0625, an exact tie, written 0.063.
theorem witness_FloatTextPrecision : isFinite 0x7F7FFFFF = true ∧ isFinite 0x80000001 = true ∧ isFinite 0x3D800000 = true ∧
    2 * (((1000 * floatUnits 0x3D800000 : Nat) : Int) - (((1000 * 0 + 63) * 2 ^ 149 : Nat) : Int)).natAbs = 2 ^ 149 ∧
    [(0x4EFFFFFF : Word)] ≠ [] := by decide +kernel
theorem witness_FloatTextPrecision_list : [(0x4EFFFFFF : Word), 0x4EFFFFFF] ≠ [] ∧
    ∀ x ∈ List.replicate 2 (0x4EFFFFFF : Word), floatInRange x = true :=
  ⟨by decide, fun x hx => by rw [List.eq_of_mem_replicate hx]; exact test_largest_float_in_range⟩
theorem witness_RoundFloatNearest : 0 < 10 ∧ roundBits 1 10 < 0x7F800000 ∧
    roundBits (2 ^ 128 - 2 ^ 103 - 1) 1 < 0x7F800000 ∧ ¬ roundBits (2 ^ 128 - 2 ^ 103) 1 < 0x7F800000 := by decide +kernel
theorem witness_ParseIntField :
    (let ds : List Byte := [0x32, 0x31, 0x34, 0x37, 0x34, 0x38, 0x33, 0x36, 0x34, 0x38]
     let rest : List Byte := [0x2D, 0x33]
     ds ≠ [] ∧ (∀ b ∈ ds, isDigit b = true) ∧ (∀ b ∈ rest.head?, isDigit b = false) ∧
       (-(digitsValue ds : Int) = -2 ^ 31) ∧ ¬ ((digitsValue ds : Int) ≤ 2 ^ 31 - 1)) ∧
    (let rest : List Byte := [0x2E, 0x35]
     (∀ b ∈ rest.head?, isDigit b = false) ∧ rest.head? ≠ some 0x2D) := by decide +kernel
theorem witness_ParseFloatField :
    (let rest : List Byte := [0x2E, 0x33]
     (∀ b ∈ [(0x31 : Byte)], isDigit b = true) ∧ (∀ b ∈ [(0x32 : Byte)], isDigit b = true) ∧
       (∀ b ∈ rest.head?, isDigit b = false) ∧ [(0x31 : Byte)] ++ [0x32] ≠ []) ∧
    (let rest : List Byte := [0x2D, 0x32]
     (∀ b ∈ rest.head?, isDigit b = false) ∧ rest.head? ≠ some 0x2E) ∧
    ([] ++ [] = ([] : List Byte)) ∧
    (let rest : List Byte := []
     (∀ b ∈ rest.head?, isDigit b = false) ∧ rest.head? ≠ some 0x2E ∧ rest.head? ≠ some 0x2D) := by decide
theorem witness_DPollEmptyOrStale :
    fresh.idle ∧ fresh.fq.prod = fresh.fq.cons ∧
    (midFrame.idle ∧ midFrame.fq.prod ≠ midFrame.fq.cons ∧ midFrame.fq.cons < midFrame.cfg.cFq ∧
      Memory.read midFrame.fq.store midFrame.fq.cons = some ⟨0, 1, 2, 4, 1⟩ ∧ 1 ≠ midFrame.scrGen) := by decide
theorem witness_DPollDrops :
    (let s := queued 1 [0x64, 0x00, 0x31, 0x00]
     s.idle ∧ s.fq.prod ≠ s.fq.cons ∧ s.fq.cons < s.cfg.cFq ∧ Memory.read s.fq.store s.fq.cons = some ⟨0, 1, 2, 1, 1⟩ ∧
       1 = s.scrGen ∧ s.readSlice 0 1 = .ok [0x64] ∧ matchRoute s.cfg.routes [0x64] = none) ∧
    (let s := queued 1 [0x61, 0x00, 0x78, 0x00]
     s.idle ∧ s.fq.prod ≠ s.fq.cons ∧ s.fq.cons < s.cfg.cFq ∧ Memory.read s.fq.store s.fq.cons = some ⟨0, 1, 2, 1, 1⟩ ∧
       1 = s.scrGen ∧ s.readSlice 0 1 = .ok [0x61] ∧ matchRoute s.cfg.routes [0x61] = some (0, ⟨[0x61], .int, 10⟩) ∧
       1 ≠ 0 ∧ s.readSlice 2 1 = .ok [0x78] ∧ classify [0x78] ≠ .int) := by decide
theorem witness_DPollCallsNoneAndNumbers :
    (let s := queued 1 [0x62, 0x00, 0x00]
     s.idle ∧ s.fq.prod ≠ s.fq.cons ∧ s.fq.cons < s.cfg.cFq ∧ Memory.read s.fq.store s.fq.cons = some ⟨0, 1, 2, 0, 1⟩ ∧
       1 = s.scrGen ∧ s.readSlice 0 1 = .ok [0x62] ∧ matchRoute s.cfg.routes [0x62] = some (1, ⟨[0x62], .string, 11⟩)) ∧
    (let s := queued 1 [0x61, 0x00, 0x2C, 0x2C, 0x37, 0x00]
     s.idle ∧ s.fq.prod ≠ s.fq.cons ∧ s.fq.cons < s.cfg.cFq ∧ Memory.read s.fq.store s.fq.cons = some ⟨0, 1, 2, 3, 1⟩ ∧
       1 = s.scrGen ∧ s.readSlice 0 1 = .ok [0x61] ∧ matchRoute s.cfg.routes [0x61] = some (0, ⟨[0x61], .int, 10⟩) ∧
       s.readSlice 2 3 = .ok [0x2C, 0x2C, 0x37] ∧ classify [0x2C, 0x2C, 0x37] = .int ∧
       s.cfg.maxItems < (items [0x2C, 0x2C, 0x37]).length) ∧
    (let s := queued 1 [0x63, 0x00, 0x2E, 0x35, 0x00]
     s.idle ∧ s.fq.prod ≠ s.fq.cons ∧ s.fq.cons < s.cfg.cFq ∧ Memory.read s.fq.store s.fq.cons = some ⟨0, 1, 2, 2, 1⟩ ∧
       1 = s.scrGen ∧ s.readSlice 0 1 = .ok [0x63] ∧ matchRoute s.cfg.routes [0x63] = some (2, ⟨[0x63], .float, 12⟩) ∧
       s.readSlice 2 2 = .ok [0x2E, 0x35] ∧ classify [0x2E, 0x35] = .float) := by decide
theorem witness_DPollCallsNoneAndNumbers_item : [[(0x31 : Byte)], [0x32]][1]? = some [0x32] := by decide
theorem witness_DPollCallsStrings :
    let s := queued 1 [0x62, 0x00, 0x61, 0x2C, 0x2C, 0x62, 0x00]
    s.idle ∧ s.fq.prod ≠ s.fq.cons ∧ s.fq.cons < s.cfg.cFq ∧ Memory.read s.fq.store s.fq.cons = some ⟨0, 1, 2, 4, 1⟩ ∧
      1 = s.scrGen ∧ s.readSlice 0 1 = .ok [0x62] ∧ matchRoute s.cfg.routes [0x62] = some (1, ⟨[0x62], .string, 11⟩) ∧
      4 ≠ 0 ∧ s.readSlice 2 4 = .ok [0x61, 0x2C, 0x2C, 0x62] ∧ classify [0x61, 0x2C, 0x2C, 0x62] = .string ∧
      s.cfg.maxItems < (items [0x61, 0x2C, 0x2C, 0x62]).length := by decide
theorem witness_ClassRowsClassify : byteClass 0x3A = .other ∧ byteClass 0x39 ≠ .other ∧ byteClass 0x2F = .other := by decide
theorem witness_ResetRestoresState : midFrame.idle ∧ ({ fresh with pollActive := true } : State).pollActive = true ∧
    ({ fresh with encRem := [0x7D] } : State).encRem ≠ [] := by decide

end Sys2Proof.Tests
end

section
/-! What a turn fetches and the step it makes: one rule for each kind of turn, then the rules for a transaction at an outside port and for
an iteration of P.POLL, and the obligation they settle. -/

namespace Sys2Proof.Machine

/-! ## What a turn fetches -/

/-- A port turn fetches the port's transaction, with the turn taken. -/
theorem fetch_of_port {s : State} {p : PortSig} {rest : List Turn} (hs : s.sched = .port p :: rest) :
    fetch s = fetchPort p { s with sched := rest } := by
  simp only [fetch, hs]

/-- A task turn fetches the next step of the running task operation, with the turn taken. -/
theorem fetch_of_task {s : State} {rest : List Turn} (hs : s.sched = .task :: rest) :
    fetch s = fetchTask { s with sched := rest } := by
  simp only [fetch, hs]

/-- A transaction the decoder accepts, at a port the environment has, is run (R102 to R108). -/
theorem fetchPort_of_external {p : PortSig} {i : Instr} (s : State) (hp : PortSig.external p = true)
    (hd : decode (.port p) = .ok i) : fetchPort p s = .run i s := by
  simp only [fetchPort, hd, hp, if_true]

/-- A running P.POLL takes the task's turn (R160). -/
theorem fetchTask_of_pollActive {s : State} (ha : s.pollActive = true) : fetchTask s = fetchByte s := by
  simp only [fetchTask, ha, if_true]

/-- A successful pop of RXQ changes RXQ alone (R124). -/
theorem State.popRx_of_pop_some {s : State} {c : Byte} {q : Queue Byte} (hq : s.rx.pop s.cfg.rx = .ok (some (c, q))) :
    s.popRx = .ok ({ s with rx := q }, some c) := by
  simp only [State.popRx, hq]

/-- An iteration of P.POLL that pops a byte runs the row that the byte selects in the parser's state (R95, R160). -/
theorem fetchByte_of_popRx_some {s s1 : State} {c : Byte} {i : Instr} (hpop : s.popRx = .ok (s1, some c))
    (hd : decode (s1.byteSignal c) = .ok i) : fetchByte s = .run i s1 := by
  simp only [fetchByte, hpop, hd]

/-- The row that a byte selects depends on neither the schedule nor RXQ (R95). -/
theorem State.byteSignal_sched_rx (s : State) (rest : List Turn) (q : Queue Byte) (c : Byte) :
    ({ s with sched := rest, rx := q } : State).byteSignal c = s.byteSignal c := rfl

/-! ## The step of a turn that runs an instruction -/

/-- A turn that fetches an instruction runs it. -/
theorem step_of_fetch_run {s t : State} {i : Instr} (h : fetch s = .run i t) : step s = exec i t := by
  rw [step_eq, h]

/-- The step of a transaction at an outside port (R12). -/
theorem step_of_external_port {s : State} {p : PortSig} {rest : List Turn} {i : Instr} (hs : s.sched = .port p :: rest)
    (hp : PortSig.external p = true) (hd : decode (.port p) = .ok i) : step s = exec i { s with sched := rest } :=
  step_of_fetch_run ((fetch_of_port hs).trans (fetchPort_of_external _ hp hd))

/-- The step of an iteration of P.POLL that pops a byte (R12, R160). -/
theorem step_of_poll_byte {s : State} {rest : List Turn} {c : Byte} {q : Queue Byte} {i : Instr}
    (hs : s.sched = .task :: rest) (ha : s.pollActive = true) (hq : s.rx.pop s.cfg.rx = .ok (some (c, q)))
    (hd : decode (s.byteSignal c) = .ok i) : step s = exec i { s with sched := rest, rx := q } := by
  have hpop : ({ s with sched := rest } : State).popRx = .ok ({ s with sched := rest, rx := q }, some c) :=
    State.popRx_of_pop_some hq
  apply step_of_fetch_run
  calc fetch s = fetchTask { s with sched := rest } := fetch_of_task hs
    _ = fetchByte { s with sched := rest } := fetchTask_of_pollActive ha
    _ = .run i { s with sched := rest, rx := q } := fetchByte_of_popRx_some hpop (by rwa [State.byteSignal_sched_rx])

/-- Settles O7: the rule of an outside port, and the rule of an iteration of P.POLL. -/
theorem stepRunsDecodedInstruction : Obligations.StepRunsDecodedInstruction :=
  ⟨fun _ _ _ _ hs hp hd => step_of_external_port hs hp hd,
   fun _ _ _ _ _ hs ha hq hd => step_of_poll_byte hs ha hq hd⟩

end Sys2Proof.Machine
end

section
/-! The circular arithmetic of a queue's indices, and what each operation on a queue does to its invariant and its live elements
(R23, R62, R72, R128). -/

namespace Sys2Proof.Machine

section
variable {α : Type} {g : Geometry} {q : Queue α} {a b c i : Nat} {x : α}

/-! ## Indices going round -/

/-- The way from `a` up to `b`, without the modulus (R128). -/
theorem dist_eq_ite (ha : a < g.cap) (hb : b < g.cap) : dist g a b = if a ≤ b then b - a else b + g.cap - a := by
  unfold dist
  split
  · rw [show b + g.cap - a = b - a + g.cap by omega, Nat.add_mod_right, Nat.mod_eq_of_lt (by omega)]
  · exact Nat.mod_eq_of_lt (by omega)

/-- An index advanced, without the modulus (R62). -/
theorem advance_eq_ite (hi : i < g.cap) : advance g i = if i + 1 = g.cap then 0 else i + 1 := by
  unfold advance
  split
  · next h => rw [h, Nat.mod_self]
  · exact Nat.mod_eq_of_lt (by omega)

theorem advance_lt (hi : i < g.cap) : advance g i < g.cap := Nat.mod_lt _ (Nat.zero_lt_of_lt hi)

theorem dist_lt (ha : a < g.cap) : dist g a b < g.cap := Nat.mod_lt _ (Nat.zero_lt_of_lt ha)

theorem dist_self (ha : a < g.cap) : dist g a a = 0 := by
  rw [dist_eq_ite ha ha, if_pos (Nat.le_refl a), Nat.sub_self]

theorem dist_pos (ha : a < g.cap) (hb : b < g.cap) (hne : a ≠ b) : 0 < dist g a b := by
  rw [dist_eq_ite ha hb]
  split <;> omega

/-- Two ways that together stay below the capacity make one way. -/
theorem dist_add (ha : a < g.cap) (hb : b < g.cap) (hc : c < g.cap) (h : dist g a b + dist g b c ≤ g.cap - 1) :
    dist g a c = dist g a b + dist g b c := by
  rw [dist_eq_ite ha hb, dist_eq_ite hb hc] at *
  rw [dist_eq_ite ha hc]
  split_ifs at * <;> omega

/-- The end of a way moves on: the way is one longer, unless it already goes all the way round. -/
theorem dist_advance_right (ha : a < g.cap) (hb : b < g.cap) (h : dist g a b < g.cap - 1) :
    dist g a (advance g b) = dist g a b + 1 := by
  rw [dist_eq_ite ha hb] at *
  rw [dist_eq_ite ha (advance_lt hb), advance_eq_ite hb]
  split_ifs at * <;> omega

/-- The start of a way moves on: the way is one shorter, unless it is empty. -/
theorem dist_advance_left (ha : a < g.cap) (hb : b < g.cap) (hne : a ≠ b) :
    dist g (advance g a) b + 1 = dist g a b := by
  rw [dist_eq_ite ha hb, dist_eq_ite (advance_lt ha) hb, advance_eq_ite ha]
  split_ifs <;> omega

/-- A way as long as it can be ends one place before its start. -/
theorem advance_eq_of_dist_eq (ha : a < g.cap) (hb : b < g.cap) (h : dist g a b = g.cap - 1) : advance g b = a := by
  rw [dist_eq_ite ha hb] at h
  rw [advance_eq_ite hb]
  split_ifs at * <;> omega

/-- The slot at the end of a way from the consumer index is where the way ends. -/
theorem Queue.slot_eq_iff (hc : q.cons < g.cap) (hb : b < g.cap) (hi : i < g.cap) :
    q.slot g i = b ↔ i = dist g q.cons b := by
  rw [dist_eq_ite hc hb]
  unfold Queue.slot
  rcases Nat.lt_or_ge (q.cons + i) g.cap with h | h
  · rw [Nat.mod_eq_of_lt h]
    split <;> omega
  · rw [Nat.mod_eq_sub_mod h, Nat.mod_eq_of_lt (by omega)]
    split <;> omega

theorem Queue.inv.prod_lt (h : q.inv g) : q.prod < g.cap := by
  obtain ⟨⟨hp, -⟩, -⟩ := h
  exact hp

theorem Queue.inv.cons_lt (h : q.inv g) : q.cons < g.cap := by
  obtain ⟨⟨-, hc, -⟩, -⟩ := h
  exact hc

/-! ## The views of the two sides -/

theorem Queue.prodView_lt (h : q.inRange g) : q.prodView g < g.cap := by
  obtain ⟨hp, -, hps, -⟩ := h
  unfold Queue.prodView
  split <;> assumption

theorem Queue.consView_lt (h : q.inRange g) : q.consView g < g.cap := by
  obtain ⟨-, hc, -, hcs⟩ := h
  unfold Queue.consView
  split <;> assumption

/-- On an Immediate queue the order of the indices is no condition (R128 b). -/
theorem Queue.ordered_of_immediate (hg : g.sync = .immediate) (hp : q.prod < g.cap) (hc : q.cons < g.cap) :
    q.ordered g := by
  have hd : dist g q.cons q.prod < g.cap := dist_lt hc
  simp only [Queue.ordered, Queue.consView, Queue.prodView, hg, dist_self hc, dist_self hp]
  omega

/-- On a Synchronised queue the copies stand between the true indices (R128 b). -/
theorem Queue.ordered_iff_of_synchronised (hg : g.sync = .synchronised) :
    q.ordered g ↔ dist g q.consSeen q.cons + dist g q.cons q.prodSeen + dist g q.prodSeen q.prod ≤ g.cap - 1 := by
  simp only [Queue.ordered, Queue.consView, Queue.prodView, hg]

/-- The elements the consumer side sees, and those it does not see yet, are all the live ones. -/
theorem Queue.count_eq_visible_add (h : q.inv g) : q.count g = q.visible g + dist g (q.prodView g) q.prod := by
  obtain ⟨hr, ho, -⟩ := id h
  exact dist_add h.cons_lt (Queue.prodView_lt hr) h.prod_lt (by simp only [Queue.ordered] at ho; omega)

/-- What the producer side takes for used: the slots freed unseen, and the live ones. -/
theorem Queue.dist_consView_prod (h : q.inv g) :
    dist g (q.consView g) q.prod = dist g (q.consView g) q.cons + q.count g := by
  have hcount := Queue.count_eq_visible_add h
  obtain ⟨hr, ho, -⟩ := id h
  simp only [Queue.count, Queue.visible, Queue.ordered] at *
  exact dist_add (Queue.consView_lt hr) h.cons_lt h.prod_lt (by omega)

/-- A side that sees room has room: what it takes for used is not all there is (R72). -/
theorem Queue.dist_consView_prod_lt (h : q.inv g) (hf : q.fullP g = false) : dist g (q.consView g) q.prod < g.cap - 1 := by
  obtain ⟨hr, -⟩ := id h
  have hlt : dist g (q.consView g) q.prod < g.cap := dist_lt (Queue.consView_lt hr)
  have hne : dist g (q.consView g) q.prod ≠ g.cap - 1 := fun he => by
    simp [Queue.fullP, advance_eq_of_dist_eq (Queue.consView_lt hr) h.prod_lt he] at hf
  omega

/-- A side that sees room is right about it (R72). -/
theorem Queue.count_lt_of_not_fullP (h : q.inv g) (hf : q.fullP g = false) : q.count g < g.cap - 1 := by
  have := Queue.dist_consView_prod h
  have := Queue.dist_consView_prod_lt h hf
  omega

theorem Queue.count_le (h : q.inv g) : q.count g ≤ g.cap - 1 :=
  Nat.le_sub_one_of_lt (dist_lt h.cons_lt)

/-- A side that sees an element sees a live one (R72). -/
theorem Queue.visible_pos_of_not_emptyC (h : q.inv g) (he : q.emptyC g = false) : 0 < q.visible g := by
  obtain ⟨hr, -⟩ := id h
  have hne : q.cons ≠ q.prodView g := fun e => by simp [Queue.emptyC, ← e] at he
  exact dist_pos h.cons_lt (Queue.prodView_lt hr) hne

theorem Queue.count_pos_of_not_emptyC (h : q.inv g) (he : q.emptyC g = false) : 0 < q.count g := by
  have := Queue.visible_pos_of_not_emptyC h he
  have := Queue.count_eq_visible_add h
  omega

/-! ## What the operations answer -/

/-- A push that succeeds saw room and stored the item (R122). -/
theorem Queue.push_some {q' : Queue α} (h : q.push g x = .ok (some q')) : q.fullP g = false ∧ q' = q.pushed g x := by
  rcases Queue.push_cases g q x with ⟨-, he⟩ | ⟨hf, -, he⟩ | ⟨-, -, he⟩ <;> rw [he] at h <;> cases h
  exact ⟨hf, rfl⟩

/-- A pop that succeeds saw an element and took the one at the consumer index (R124). -/
theorem Queue.pop_some {q' : Queue α} (h : q.pop g = .ok (some (x, q'))) :
    q.emptyC g = false ∧ Memory.read q.store q.cons = some x ∧ q' = q.popped g := by
  rcases Queue.pop_cases g q with ⟨-, he⟩ | ⟨y, hf, -, hr, he⟩ | ⟨-, -, -, he⟩ | ⟨-, -, he⟩ <;> rw [he] at h <;> cases h
  exact ⟨hf, hr, rfl⟩

/-! ## A push -/

theorem Queue.count_pushed (h : q.inv g) (hf : q.fullP g = false) : (q.pushed g x).count g = q.count g + 1 :=
  dist_advance_right h.cons_lt h.prod_lt (Queue.count_lt_of_not_fullP h hf)

/-- The slot a push writes is the first after the live ones. -/
theorem Queue.slot_eq_prod_iff (h : q.inv g) (hi : i < g.cap) : q.slot g i = q.prod ↔ i = q.count g :=
  Queue.slot_eq_iff h.cons_lt h.prod_lt hi

/-- After a push the live slots read as before, and the next one reads as the item. -/
theorem Queue.read_slot_pushed (h : q.inv g) (hi : i < g.cap) :
    Memory.read (q.pushed g x).store ((q.pushed g x).slot g i) =
      if i = q.count g then some x else Memory.read q.store (q.slot g i) := by
  change Memory.read (Memory.write q.store q.prod x) (q.slot g i) = _
  rw [Memory.read_write]
  exact if_congr (Queue.slot_eq_prod_iff h hi) rfl rfl

/-- A push keeps the order of the indices (R128 b). -/
theorem Queue.ordered_pushed (h : q.inv g) (hf : q.fullP g = false) : (q.pushed g x).ordered g := by
  have hcount := Queue.count_lt_of_not_fullP h hf
  have hused := Queue.dist_consView_prod_lt h hf
  have htotal := Queue.dist_consView_prod h
  have hsplit := Queue.count_eq_visible_add h
  obtain ⟨⟨hp, hc, hps, hcs⟩, ho, -⟩ := h
  cases hg : g.sync with
  | immediate => exact Queue.ordered_of_immediate hg (advance_lt hp) hc
  | synchronised =>
    simp only [Queue.count, Queue.visible, Queue.consView, Queue.prodView, hg] at hcount hused htotal hsplit
    have hstep : dist g q.prodSeen (advance g q.prod) = dist g q.prodSeen q.prod + 1 :=
      dist_advance_right hps hp (by omega)
    rw [Queue.ordered_iff_of_synchronised hg] at ho ⊢
    change dist g q.consSeen q.cons + dist g q.cons q.prodSeen + dist g q.prodSeen (advance g q.prod) ≤ _
    omega

/-- A push that saw room keeps the queue's invariant (R128). -/
theorem Queue.inv_pushed (h : q.inv g) (hf : q.fullP g = false) : (q.pushed g x).inv g := by
  obtain ⟨⟨hp, hc, hps, hcs⟩, ho, hw, hwf, hwi⟩ := id h
  have hcount := Queue.count_lt_of_not_fullP h hf
  have hlt := dist_lt (b := q.prod) hc
  refine ⟨⟨advance_lt hp, hc, hps, hcs⟩, Queue.ordered_pushed h hf, fun i hi => ?_, Memory.write_wf _ _ hwf,
    Memory.write_within _ hwi hp⟩
  rw [Queue.count_pushed h hf] at hi
  rw [Queue.read_slot_pushed h (by omega)]
  split
  · rfl
  · exact hw i (by omega)

/-- A push appends to the live elements (R23). -/
theorem Queue.live_pushed (h : q.inv g) (hf : q.fullP g = false) : (q.pushed g x).live g = q.live g ++ [x] := by
  have hcount := Queue.count_lt_of_not_fullP h hf
  unfold Queue.live
  rw [Queue.count_pushed h hf, List.range_succ, List.filterMap_append]
  congr 1
  · refine List.filterMap_congr fun i hi => ?_
    have hi := List.mem_range.1 hi
    rw [Queue.read_slot_pushed h (by omega), if_neg (by omega)]
  · simp [Queue.read_slot_pushed h (show q.count g < g.cap by omega)]

/-! ## A pop -/

theorem Queue.slot_zero (hc : q.cons < g.cap) : q.slot g 0 = q.cons := Nat.mod_eq_of_lt hc

/-- The slots after a pop are those before it but the first. -/
theorem Queue.slot_popped : (q.popped g).slot g i = q.slot g (i + 1) := by
  change ((q.cons + 1) % g.cap + i) % g.cap = (q.cons + (i + 1)) % g.cap
  rw [Nat.mod_add_mod, Nat.add_assoc, Nat.add_comm 1 i]

theorem Queue.count_popped (h : q.inv g) (he : q.emptyC g = false) : (q.popped g).count g + 1 = q.count g := by
  have hpos := Queue.count_pos_of_not_emptyC h he
  have hne : q.cons ≠ q.prod := fun e => by simp [Queue.count, ← e, dist_self h.cons_lt] at hpos
  exact dist_advance_left h.cons_lt h.prod_lt hne

/-- A pop keeps the order of the indices (R128 b). -/
theorem Queue.ordered_popped (h : q.inv g) (he : q.emptyC g = false) : (q.popped g).ordered g := by
  obtain ⟨⟨hp, hc, hps, hcs⟩, ho, -⟩ := id h
  cases hg : g.sync with
  | immediate => exact Queue.ordered_of_immediate hg hp (advance_lt hc)
  | synchronised =>
    have hne : q.cons ≠ q.prodSeen := fun e => by simp [Queue.emptyC, Queue.prodView, hg, e] at he
    rw [Queue.ordered_iff_of_synchronised hg] at ho ⊢
    change dist g q.consSeen (advance g q.cons) + dist g (advance g q.cons) q.prodSeen + dist g q.prodSeen q.prod ≤ _
    have hpos := dist_pos hc hps hne
    have hseen := dist_advance_left hc hps hne
    have hfreed : dist g q.consSeen (advance g q.cons) = dist g q.consSeen q.cons + 1 :=
      dist_advance_right hcs hc (by omega)
    omega

/-- A pop that saw an element keeps the queue's invariant (R128). -/
theorem Queue.inv_popped (h : q.inv g) (he : q.emptyC g = false) : (q.popped g).inv g := by
  obtain ⟨⟨hp, hc, hps, hcs⟩, ho, hw, hwf, hwi⟩ := id h
  have hcount := Queue.count_popped h he
  refine ⟨⟨hp, advance_lt hc, hps, hcs⟩, Queue.ordered_popped h he, fun i hi => ?_, hwf, hwi⟩
  rw [Queue.slot_popped]
  exact hw (i + 1) (by omega)

/-- A pop takes the oldest of the live elements (R23). -/
theorem Queue.live_popped (h : q.inv g) (he : q.emptyC g = false) (hx : Memory.read q.store q.cons = some x) :
    q.live g = x :: (q.popped g).live g := by
  have hhead : Memory.read q.store (q.slot g 0) = some x := by rw [Queue.slot_zero h.cons_lt, hx]
  unfold Queue.live
  rw [← Queue.count_popped h he, List.range_succ_eq_map,
    List.filterMap_cons_some (f := fun i => Memory.read q.store (q.slot g i)) hhead, List.filterMap_map]
  congr 1
  exact List.filterMap_congr fun i _ => by rw [Queue.slot_popped]; rfl

/-! ## The synchronisers -/

/-- A step of Q.SYNCP changes the consumer side's copy alone (R126). -/
theorem Queue.syncP_eq (g : Geometry) (q : Queue α) : q.syncP g = { q with prodSeen := (q.syncP g).prodSeen } := by
  unfold Queue.syncP
  split
  · split <;> rfl
  · rfl

/-- A step of Q.SYNCC changes the producer side's copy alone (R127). -/
theorem Queue.syncC_eq (g : Geometry) (q : Queue α) : q.syncC g = { q with consSeen := (q.syncC g).consSeen } := by
  unfold Queue.syncC
  split
  · split <;> rfl
  · rfl

theorem Queue.live_syncP (g : Geometry) (q : Queue α) : (q.syncP g).live g = q.live g := by rw [Queue.syncP_eq]; rfl

theorem Queue.live_syncC (g : Geometry) (q : Queue α) : (q.syncC g).live g = q.live g := by rw [Queue.syncC_eq]; rfl

/-- Q.SYNCP keeps the queue's invariant: its copy moves up to the producer index and not past it (R126, R128). -/
theorem Queue.inv_syncP (h : q.inv g) : (q.syncP g).inv g := by
  unfold Queue.syncP
  split
  · next hg =>
    split
    · exact h
    · next hne =>
      obtain ⟨⟨hp, hc, hps, hcs⟩, ho, hw, hwf, hwi⟩ := h
      refine ⟨⟨hp, hc, advance_lt hps, hcs⟩, ?_, hw, hwf, hwi⟩
      rw [Queue.ordered_iff_of_synchronised hg] at ho ⊢
      have hpos := dist_pos hps hp hne
      have hbehind := dist_advance_left hps hp hne
      have hahead := dist_advance_right hc hps (by omega)
      simp only
      omega
  · exact h

/-- Q.SYNCC keeps the queue's invariant: its copy moves up to the consumer index and not past it (R127, R128). -/
theorem Queue.inv_syncC (h : q.inv g) : (q.syncC g).inv g := by
  unfold Queue.syncC
  split
  · next hg =>
    split
    · exact h
    · next hne =>
      obtain ⟨⟨hp, hc, hps, hcs⟩, ho, hw, hwf, hwi⟩ := h
      refine ⟨⟨hp, hc, hps, advance_lt hcs⟩, ?_, hw, hwf, hwi⟩
      rw [Queue.ordered_iff_of_synchronised hg] at ho ⊢
      have hbehind := dist_advance_left hcs hc hne
      simp only
      omega
  · exact h

/-! ## The live elements -/

/-- The live elements are as many as the indices say, for every live slot is written (R23, R128 d). -/
theorem Queue.length_live (h : q.inv g) : (q.live g).length = q.count g := by
  obtain ⟨-, -, hw, -⟩ := h
  have hall := List.filterMap_length_eq_length (f := fun i => Memory.read q.store (q.slot g i))
    (l := List.range (q.count g))
  rw [Queue.live, hall.2 fun i hi => hw i (List.mem_range.1 hi), List.length_range]

theorem Queue.live_ne_nil (h : q.inv g) (he : q.emptyC g = false) : q.live g ≠ [] :=
  List.ne_nil_of_length_pos (Queue.length_live h ▸ Queue.count_pos_of_not_emptyC h he)

/-- The invariant holds of an empty queue (R50, R128). -/
theorem Queue.inv_empty (α : Type) {g : Geometry} (hg : 0 < g.cap) : Queue.inv g (Queue.empty α) := by
  have hd : dist g 0 0 = 0 := dist_self hg
  have hcv : (Queue.empty α).consView g = 0 := by unfold Queue.consView; split <;> rfl
  have hpv : (Queue.empty α).prodView g = 0 := by unfold Queue.prodView; split <;> rfl
  refine ⟨⟨hg, hg, hg, hg⟩, ?_, fun i hi => ?_, .nil, by simp [Queue.empty]⟩
  · rw [Queue.ordered, hcv, hpv]
    change dist g 0 0 + dist g 0 0 + dist g 0 0 ≤ g.cap - 1
    omega
  · simp [Queue.count, Queue.empty, hd] at hi

/-- An empty queue has no live element. -/
theorem Queue.live_empty (α : Type) {g : Geometry} : (Queue.empty α).live g = [] := by
  simp [Queue.live, Queue.empty]

end

/-- Settles O16, operation by operation. -/
theorem liveElements : Obligations.LiveElements := by
  intro α g q _ h
  refine ⟨fun x q' hpush => ?_, fun x q' hpop => ?_, Queue.live_syncP g q, Queue.live_syncC g q, Queue.length_live h,
    Queue.count_le h, Queue.count_lt_of_not_fullP h, Queue.live_ne_nil h⟩
  · obtain ⟨hf, rfl⟩ := Queue.push_some hpush
    exact Queue.live_pushed h hf
  · obtain ⟨he, hx, rfl⟩ := Queue.pop_some hpop
    exact Queue.live_popped h he hx

end Sys2Proof.Machine
end

section
/-! Everything a step that goes on can have done, one case for each kind of turn, with what the decoder can give in each; then the
iteration of P.POLL (R12, R160). -/

namespace Sys2Proof.Machine

/-! ## What the decoder gives to each port -/

/-- The rows of the classifier's table (R96). -/
def isClassRow : Instr → Bool
  | .clsDigit07 _ | .clsDigit89 _ | .clsMinus | .clsComma | .clsDot | .clsOther _ => true
  | _ => false

/-- The rows of the command table (R101, R105). -/
def isCommandRow : Instr → Bool
  | .pPoll | .dPoll | .nSet _ | .eNone _ | .eInt _ _ | .eFloat _ _ | .eStr _ _ | .cmdReserved0 | .cmdReserved8F _ => true
  | _ => false

/-- A parser key decodes to a parser row (R95). -/
theorem isParserRow_of_decode {full : Bool} {key : BitVec 11} {i : Instr} (h : decode (.pbyte full key) = .ok i) :
    isParserRow i = true := by
  have htable : ∀ r ∈ pbyteTable, ∀ st c, isParserRow (r.build st c) = true := by simp [pbyteTable, isParserRow]
  simp only [decode, decodeKey] at h
  split at h
  · next r hr =>
    cases h
    exact htable r (List.mem_of_find?_eq_some hr) _ _
  · cases h

/-- A data byte decodes to a class row (R96). -/
theorem isClassRow_of_decode {b : Byte} {i : Instr} (h : decode (.port (.dbyte b)) = .ok i) : isClassRow i = true := by
  have htable : ∀ r ∈ dbyteTable, isClassRow (r.build b) = true := by simp [dbyteTable, isClassRow]
  simp only [decode, decodePort, decodeDByte] at h
  split at h
  · next r hr =>
    cases h
    exact htable r (List.mem_of_find?_eq_some hr)
  · cases h

/-- A command decodes to what the row of its code builds (R105). -/
theorem build_of_decode_cmd {c : CmdSig} {i : Instr} (h : decode (.port (.cmd c)) = .ok i) :
    ∃ r, selectCmd c.op = some r ∧ r.build c = i := by
  simp only [decode, decodePort, decodeCmd] at h
  split at h
  · next r hr =>
    split at h
    · unfold checkFit at h
      split at h
      · cases h
        exact ⟨r, hr, rfl⟩
      · cases h
    · cases h
  · cases h

theorem isCommandRow_of_decode {c : CmdSig} {i : Instr} (h : decode (.port (.cmd c)) = .ok i) : isCommandRow i = true := by
  have htable : ∀ r ∈ cmdTable, isCommandRow (r.build c) = true := by simp [cmdTable, isCommandRow]
  obtain ⟨r, hr, rfl⟩ := build_of_decode_cmd h
  exact htable r (List.mem_of_find?_eq_some hr)

/-- The ports of one request line decode to their own instruction or to nothing (R102, R103, R107, R108). -/
theorem eq_of_ite_ok_eq_ok {p : Prop} [Decidable p] {i j : Instr} {e : DecodeError}
    (h : (if p then Except.ok i else Except.error e) = Except.ok j) : i = j := by
  split at h
  · cases h
    rfl
  · cases h

/-- Only the code 0x2 of the command port decodes to D.POLL (R105). -/
theorem eq_cmd_of_decode_dPoll {p : PortSig} (h : decode (.port p) = .ok .dPoll) : ∃ c, p = .cmd c ∧ c.op = 0x2 := by
  cases p with
  | cmd c =>
    have htable : ∀ r ∈ cmdTable, r.build c = .dPoll → r.mask = 0xF ∧ r.value = 0x2 := by simp [cmdTable]
    have hmask : ∀ op : BitVec 4, op &&& 0xF = 0x2 → op = 0x2 := by decide
    obtain ⟨r, hr, hb⟩ := build_of_decode_cmd h
    obtain ⟨hm, hv⟩ := htable r (List.mem_of_find?_eq_some hr) hb
    have hsel := List.find?_some hr
    exact ⟨c, rfl, hmask _ (by simpa [hm, hv] using hsel)⟩
  | dbyte b => cases isClassRow_of_decode h
  | qProducer key who item => cases eq_of_ite_ok_eq_ok h
  | qConsumer key who q => cases eq_of_ite_ok_eq_ok h
  | rx valid data => cases eq_of_ite_ok_eq_ok h
  | tx req => cases eq_of_ite_ok_eq_ok h
  | rst r => cases eq_of_ite_ok_eq_ok h

/-- No turn from outside runs Q.PUSH as the parser (R133, R281; log entry 14). -/
theorem ne_parser_of_external {p : PortSig} {who : Role} {item : QItem} (hp : PortSig.external p = true)
    (h : decode (.port p) = .ok (.qPush who item)) : who ≠ .parser := by
  cases p with
  | qProducer key role x =>
    cases eq_of_ite_ok_eq_ok h
    rintro rfl
    simp [PortSig.external] at hp
  | dbyte b => cases isClassRow_of_decode h
  | cmd c => cases isCommandRow_of_decode h
  | qConsumer key role q => cases eq_of_ite_ok_eq_ok h
  | rx valid data => cases eq_of_ite_ok_eq_ok h
  | tx req => cases eq_of_ite_ok_eq_ok h
  | rst r => cases eq_of_ite_ok_eq_ok h

/-! ## The cases of a step -/

/-- A step out of `s` that goes on, by the kind of its turn: the state it leads to (R12, R262). -/
inductive StepTaken (s : State) : State → Prop
  /-- no turn is left -/
  | noTurn (hs : s.sched = []) : StepTaken s s
  /-- the port's signals are idle -/
  | idlePort {p : PortSig} {rest : List Turn} (hs : s.sched = .port p :: rest) : StepTaken s { s with sched := rest }
  /-- a transaction at an outside port -/
  | transaction {p : PortSig} {rest : List Turn} {i : Instr} {t : State} (hs : s.sched = .port p :: rest)
      (hp : PortSig.external p = true) (hd : decode (.port p) = .ok i) (he : exec i { s with sched := rest } = .next t) :
      StepTaken s t
  /-- an iteration of P.POLL that pops a byte -/
  | pollByte {rest : List Turn} {u t : State} {c : Byte} {i : Instr} (hs : s.sched = .task :: rest)
      (ha : s.pollActive = true) (hpop : ({ s with sched := rest } : State).popRx = .ok (u, some c))
      (hd : decode (u.byteSignal c) = .ok i) (he : exec i u = .next t) : StepTaken s t
  /-- the pop that ends a P.POLL -/
  | pollEnd {rest : List Turn} {u : State} (hs : s.sched = .task :: rest) (ha : s.pollActive = true)
      (hpop : ({ s with sched := rest } : State).popRx = .ok (u, none)) : StepTaken s u.endPoll
  /-- one E.EMIT -/
  | emitByte {rest : List Turn} {t : State} (hs : s.sched = .task :: rest) (ha : s.pollActive = false)
      (he : ({ s with sched := rest } : State).emit = .next t) : StepTaken s t
  /-- a turn of a producer-to-consumer synchroniser -/
  | syncP {q : QId} {rest : List Turn} (hs : s.sched = .syncP q :: rest) :
      StepTaken s (({ s with sched := rest } : State).syncP q)
  /-- a turn of a consumer-to-producer synchroniser -/
  | syncC {q : QId} {rest : List Turn} (hs : s.sched = .syncC q :: rest) :
      StepTaken s (({ s with sched := rest } : State).syncC q)

theorem fetch_of_nil {s : State} (hs : s.sched = []) : fetch s = .answer (.next s) := by
  simp only [fetch, hs]

/-- With a P.POLL running the task's turn is its next iteration (R46, R160). -/
theorem fetch_of_poll {s : State} {rest : List Turn} (hs : s.sched = .task :: rest) (ha : s.pollActive = true) :
    fetch s = fetchByte { s with sched := rest } :=
  (fetch_of_task hs).trans (fetchTask_of_pollActive (s := { s with sched := rest }) ha)

/-- With no P.POLL running the task's turn is the encoder's (R47). -/
theorem fetch_of_emit {s : State} {rest : List Turn} (hs : s.sched = .task :: rest) (ha : s.pollActive = false) :
    fetch s = .answer ({ s with sched := rest } : State).emit := by
  rw [fetch_of_task hs]
  simp [fetchTask, ha]

theorem fetch_of_syncP {s : State} {q : QId} {rest : List Turn} (hs : s.sched = .syncP q :: rest) :
    fetch s = .answer (.next (({ s with sched := rest } : State).syncP q)) := by
  simp only [fetch, hs]

theorem fetch_of_syncC {s : State} {q : QId} {rest : List Turn} (hs : s.sched = .syncC q :: rest) :
    fetch s = .answer (.next (({ s with sched := rest } : State).syncC q)) := by
  simp only [fetch, hs]

/-- The cases of a port turn that goes on. -/
theorem StepTaken.of_port {s t : State} {p : PortSig} {rest : List Turn} (hs : s.sched = .port p :: rest)
    (h : step s = .next t) : StepTaken s t := by
  rw [step_eq, fetch_of_port hs, fetchPort] at h
  cases hd : decode (.port p) with
  | ok i =>
    cases hp : PortSig.external p with
    | true =>
      simp only [hd, hp, if_true] at h
      exact .transaction hs hp hd h
    | false => simp [hd, hp] at h
  | error e =>
    cases e with
    | noRequest =>
      simp only [hd] at h
      cases h
      exact .idlePort hs
    | noRow => simp [hd] at h
    | countMismatch => simp [hd] at h
    | tooLong => simp [hd] at h

/-- The cases of an iteration of P.POLL that goes on (R160). -/
theorem StepTaken.of_poll {s t : State} {rest : List Turn} (hs : s.sched = .task :: rest) (ha : s.pollActive = true)
    (h : step s = .next t) : StepTaken s t := by
  rw [step_eq, fetch_of_poll hs ha, fetchByte] at h
  match hpop : ({ s with sched := rest } : State).popRx with
  | .error f => simp [hpop] at h
  | .ok (u, none) =>
    simp only [hpop] at h
    cases h
    exact .pollEnd hs ha hpop
  | .ok (u, some c) =>
    cases hd : decode (u.byteSignal c) with
    | ok i =>
      simp only [hpop, hd] at h
      exact .pollByte hs ha hpop hd h
    | error e => simp [hpop, hd] at h

/-- Everything a step that goes on can have done. -/
theorem stepTaken_of_step {s t : State} (h : step s = .next t) : StepTaken s t := by
  match hs : s.sched with
  | [] =>
    rw [step_eq, fetch_of_nil hs] at h
    cases h
    exact .noTurn hs
  | .port p :: rest => exact .of_port hs h
  | .task :: rest =>
    cases ha : s.pollActive with
    | true => exact .of_poll hs ha h
    | false =>
      rw [step_eq, fetch_of_emit hs ha] at h
      exact .emitByte hs ha h
  | .syncP q :: rest =>
    rw [step_eq, fetch_of_syncP hs] at h
    cases h
    exact .syncP hs
  | .syncC q :: rest =>
    rw [step_eq, fetch_of_syncC hs] at h
    cases h
    exact .syncC hs

/-! ## P.POLL -/

/-- P.POLL is accepted when no operation runs (R46, R160). -/
theorem execPPoll_of_idle {s : State} (h : s.idle) : exec .pPoll s = .next { s with pollActive := true } :=
  (onIdle_next_iff _ _ _).2 ⟨s.busy_eq_false.2 h, rfl⟩

/-- An iteration of P.POLL whose pop succeeds parses the popped byte (R140, R160). -/
theorem step_of_poll_pop {s : State} {rest : List Turn} {c : Byte} {q : Queue Byte} (hs : s.sched = .task :: rest)
    (ha : s.pollActive = true) (hq : s.rx.pop s.cfg.rx = .ok (some (c, q))) :
    step s = ({ s with sched := rest, rx := q } : State).parseByte c := by
  have hpop : ({ s with sched := rest } : State).popRx = .ok ({ s with sched := rest, rx := q }, some c) :=
    State.popRx_of_pop_some hq
  rw [step_eq, fetch_of_poll hs ha]
  simp only [fetchByte, hpop, State.parseByte]
  cases decode (({ s with sched := rest, rx := q } : State).byteSignal c) <;> rfl

/-- The pop that finds RXQ empty ends the P.POLL (R160). -/
theorem step_of_poll_empty {s : State} {rest : List Turn} (hs : s.sched = .task :: rest) (ha : s.pollActive = true)
    (hq : s.rx.pop s.cfg.rx = .ok none) :
    step s = .next { s with sched := rest, pollActive := false, events := s.events ++ [.popEmpty .rxq],
                            outs := s.outs ++ [.cmdDone true] } := by
  rw [step_eq, fetch_of_poll hs ha]
  simp only [fetchByte, State.popRx, hq]
  rfl

/-- A pop that sees an element, at an index in range and a written slot, succeeds (R124). -/
theorem Queue.pop_of_read {α : Type} {g : Geometry} {q : Queue α} {x : α} (he : q.prodView g ≠ q.cons) (hc : q.cons < g.cap)
    (hx : Memory.read q.store q.cons = some x) : q.pop g = .ok (some (x, q.popped g)) := by
  simp [Queue.pop, Queue.emptyC, he, hc, hx, Queue.popped, advance]

/-- A pop that sees no element fails (R124). -/
theorem Queue.pop_of_empty {α : Type} {g : Geometry} {q : Queue α} (he : q.prodView g = q.cons) : q.pop g = .ok none := by
  simp [Queue.pop, Queue.emptyC, he]

/-- Settles O38: acceptance, the iteration, and the failed pop that ends it. -/
theorem pollIterates : Obligations.PollIterates :=
  ⟨fun _ hidle => execPPoll_of_idle hidle, fun _ _ hs ha =>
    ⟨fun _ he hc hx => step_of_poll_pop hs ha (Queue.pop_of_read he hc hx),
     fun he => step_of_poll_empty hs ha (Queue.pop_of_empty he)⟩⟩

end Sys2Proof.Machine
end

section
/-! What a D.POLL that goes on has done, operation by operation (R170 to R186). -/

namespace Sys2Proof.Machine

/-- A D.POLL that goes on finds FQ empty, or it dispatches the popped view of the present generation (R171, R172). -/
theorem execDPoll_next {s t : State} (h : execDPoll s = .next t) :
    (∃ u, s.popFq = .ok (u, none) ∧ t = u.done true) ∨
    (∃ u v, s.popFq = .ok (u, some v) ∧ v.gen = u.scrGen ∧ u.dispatchView v = .next t) := by
  obtain ⟨-, ho⟩ := (onIdle_next_iff _ _ _).1 h
  split at ho
  · cases ho
  · next u hu =>
    cases ho
    exact .inl ⟨u, hu, rfl⟩
  · next u v hu =>
    split at ho
    · next hgen => exact .inr ⟨u, v, hu, hgen, ho⟩
    · cases ho

/-- A view dispatched misses its route, calls with None, or delivers its data (R173, R174). -/
theorem State.dispatchView_next {s t : State} {v : View} (h : s.dispatchView v = .next t) :
    t = (s.raise .routeMiss).done true ∨
    (∃ r, t = (s.callHandler r .none []).done true) ∨
    (∃ r data, s.readSlice v.dataOff v.dataLen = .ok data ∧ s.deliver v r data = .next t) := by
  unfold State.dispatchView at h
  split at h
  · cases h
  · split at h
    · cases h
      exact .inl rfl
    · next r hr =>
      split at h
      · cases h
        exact .inr (.inl ⟨r, rfl⟩)
      · split at h
        · cases h
        · next data hd => exact .inr (.inr ⟨r, data, hd, h⟩)

/-- Data delivered has the wrong type, or its values are parsed and the handler is called once (R177, R179, R186). -/
theorem State.deliver_next {s t : State} {v : View} {r : Nat × Route} {data : List Byte} (h : s.deliver v r data = .next t) :
    (∃ e, t = (({ s with scan := Scan.start } : State).raise e).done true) ∨
    (∃ u ty vals, (({ s with scan := Scan.start } : State).noteTruncation (items data).length).payloadVals v ty data
        = .ok (vals, u) ∧ t = (u.callHandler r ty vals).done true) := by
  rw [State.deliver, State.scanData_eq] at h
  simp only at h
  split at h
  · split at h
    · cases h
    · next vals u hu =>
      cases h
      exact .inr ⟨u, _, vals, hu, rfl⟩
  · cases h
    exact .inl ⟨_, rfl⟩

/-- Parsing the items counts draws, or splits the payload in place, and changes nothing else (R180, R182, R184). -/
theorem State.payloadVals_ok {s u : State} {v : View} {ty : PType} {data : List Byte} {vals : List Val}
    (h : s.payloadVals v ty data = .ok (vals, u)) :
    (∃ k, u = { s with draws := k }) ∨ u = { s with scr := splitCommas v.dataOff data s.scr } := by
  cases ty with
  | none => cases h; exact .inl ⟨s.draws, rfl⟩
  | int => cases h; exact .inl ⟨_, rfl⟩
  | float => cases h; exact .inl ⟨_, rfl⟩
  | string =>
    simp only [State.payloadVals] at h
    split at h
    · cases h
    · cases h
      exact .inr rfl

end Sys2Proof.Machine
end

section
/-! What a step adds to the trace and to the output ports, and that it leaves the configuration (R11, R20, R186, R222, R250, R273). -/

namespace Sys2Proof.Machine

/-- From `s` to `t` the configuration stays, the trace grows, and the output ports show `os` more. -/
structure State.Shows (s t : State) (os : List Out) : Prop where
  cfg : t.cfg = s.cfg
  events : s.events <+: t.events
  outs : t.outs = s.outs ++ os

/-- From `s` to `t` the output ports show neither a handler call nor a notification. -/
def State.Quiet (s t : State) : Prop := ∃ os, s.Shows t os ∧ ∀ o ∈ os, o.isCall = false ∧ o.isNotify = false

/-! ## Rules of composition -/

/-- Whatever leaves the configuration, the trace and the record of the ports alone shows nothing. -/
theorem State.Shows.of_eq {s t : State} (hcfg : t.cfg = s.cfg) (hev : t.events = s.events) (hout : t.outs = s.outs) :
    s.Shows t [] := ⟨hcfg, hev ▸ List.prefix_rfl, by rw [hout, List.append_nil]⟩

theorem State.Shows.trans {s t u : State} {os ps : List Out} (h : s.Shows t os) (h' : t.Shows u ps) :
    s.Shows u (os ++ ps) :=
  ⟨h'.cfg.trans h.cfg, h.events.trans h'.events, by rw [h'.outs, h.outs, List.append_assoc]⟩

theorem State.shows_raise (s : State) (e : Event) : s.Shows (s.raise e) [] :=
  ⟨rfl, List.prefix_append _ _, (List.append_nil _).symm⟩

theorem State.shows_emitOut (s : State) (o : Out) : s.Shows (s.emitOut o) [o] := ⟨rfl, List.prefix_rfl, rfl⟩

theorem State.shows_done (s : State) (ok : Bool) : s.Shows (s.done ok) [.cmdDone ok] := s.shows_emitOut _

theorem State.shows_enterError (s : State) (e : Event) : s.Shows (s.enterError e) [] :=
  ⟨rfl, List.prefix_append _ _, (List.append_nil _).symm⟩

theorem State.shows_resetIdx (s : State) : s.Shows s.resetIdx [] := .of_eq rfl rfl rfl

theorem State.shows_noteTruncation (s : State) (n : Nat) : s.Shows (s.noteTruncation n) [] := by
  unfold State.noteTruncation
  split
  · exact s.shows_raise _
  · exact .of_eq rfl rfl rfl

theorem State.shows_fire (s : State) : s.Shows s.fire (notices s.ncb 1) := by
  unfold State.fire
  cases hn : s.ncb with
  | none => exact .of_eq rfl rfl rfl
  | some id => exact s.shows_emitOut _

theorem State.shows_syncP (s : State) (q : QId) : s.Shows (s.syncP q) [] := .of_eq (by simp) (by simp) (by simp)

theorem State.shows_syncC (s : State) (q : QId) : s.Shows (s.syncC q) [] := .of_eq (by simp) (by simp) (by simp)

theorem State.Shows.quiet {s t : State} (h : s.Shows t []) : s.Quiet t := ⟨[], h, by simp⟩

theorem State.Quiet.of_eq {s t : State} (hcfg : t.cfg = s.cfg) (hev : t.events = s.events) (hout : t.outs = s.outs) :
    s.Quiet t := (State.Shows.of_eq hcfg hev hout).quiet

theorem State.Quiet.trans {s t u : State} (h : s.Quiet t) (h' : t.Quiet u) : s.Quiet u := by
  obtain ⟨os, hs, hos⟩ := h
  obtain ⟨ps, hs', hps⟩ := h'
  exact ⟨os ++ ps, hs.trans hs', fun o ho => (List.mem_append.1 ho).elim (hos o) (hps o)⟩

/-- A port other than the handler's and the notifier's shows something. -/
theorem State.quiet_emitOut (s : State) {o : Out} (hc : o.isCall = false) (hn : o.isNotify = false) :
    s.Quiet (s.emitOut o) := ⟨[o], s.shows_emitOut o, by simp [hc, hn]⟩

theorem State.quiet_done (s : State) (ok : Bool) : s.Quiet (s.done ok) := s.quiet_emitOut rfl rfl

/-! ## The queues -/

section
variable {s t : State} {b : Byte} {v : View} {ok : Bool} {r : Option Byte} {rv : Option View}

theorem State.shows_pushRx (h : s.pushRx b = .ok (t, ok)) : s.Shows t [] := by
  obtain ⟨-, -, rfl⟩ | ⟨-, -, -, rfl⟩ := State.pushRx_cases h
  · exact s.shows_raise _
  · exact .of_eq rfl rfl rfl

theorem State.shows_pushFq (h : s.pushFq v = .ok (t, ok)) : s.Shows t [] := by
  obtain ⟨-, -, rfl⟩ | ⟨-, -, -, rfl⟩ := State.pushFq_cases h
  · exact s.shows_raise _
  · exact .of_eq rfl rfl rfl

theorem State.shows_pushTx (h : s.pushTx b = .ok (t, ok)) : s.Shows t [] := by
  obtain ⟨-, -, rfl⟩ | ⟨-, -, -, rfl⟩ := State.pushTx_cases h
  · exact s.shows_raise _
  · exact .of_eq rfl rfl rfl

theorem State.shows_popRx (h : s.popRx = .ok (t, r)) : s.Shows t [] := by
  obtain ⟨-, -, rfl⟩ | ⟨-, -, -, -, -, rfl⟩ := State.popRx_cases h
  · exact s.shows_raise _
  · exact .of_eq rfl rfl rfl

theorem State.shows_popFq (h : s.popFq = .ok (t, rv)) : s.Shows t [] := by
  obtain ⟨-, -, rfl⟩ | ⟨-, -, -, -, -, rfl⟩ := State.popFq_cases h
  · exact s.shows_raise _
  · exact .of_eq rfl rfl rfl

theorem State.shows_popTx (h : s.popTx = .ok (t, r)) : s.Shows t [] := by
  obtain ⟨-, -, rfl⟩ | ⟨-, -, -, -, -, rfl⟩ := State.popTx_cases h
  · exact s.shows_raise _
  · exact .of_eq rfl rfl rfl

/-- A producer's port shows the push's result and nothing else (R122). -/
theorem quiet_pushResult {q : QId} {p : Except Fault (State × Bool)} (hp : ∀ u ok, p = .ok (u, ok) → s.Shows u [])
    (h : pushResult q p = .next t) : s.Quiet t := by
  obtain ⟨u, ok, hu, rfl⟩ := pushResult_next h
  exact (hp u ok hu).quiet.trans (u.quiet_emitOut rfl rfl)

/-- A byte consumer's port shows the pop's result and nothing else (R124). -/
theorem quiet_popByteResult {q : QId} {p : Except Fault (State × Option Byte)}
    (hp : ∀ u r, p = .ok (u, r) → s.Shows u []) (h : popByteResult q p = .next t) : s.Quiet t := by
  obtain ⟨u, r, hu, rfl⟩ := popByteResult_next h
  exact (hp u r hu).quiet.trans (u.quiet_emitOut rfl rfl)

/-- FQ's consumer port shows the pop's result and nothing else (R124). -/
theorem quiet_popViewResult {p : Except Fault (State × Option View)} (hp : ∀ u r, p = .ok (u, r) → s.Shows u [])
    (h : popViewResult p = .next t) : s.Quiet t := by
  obtain ⟨u, r, hu, rfl⟩ := popViewResult_next h
  exact (hp u r hu).quiet.trans (u.quiet_emitOut rfl rfl)

theorem quiet_qPush {who : Role} {item : QItem} (h : exec (.qPush who item) s = .next t) : s.Quiet t := by
  change execQPush who item s = .next t at h
  unfold execQPush at h
  split at h
  · cases item with
    | rxByte b => exact quiet_pushResult (fun _ _ => State.shows_pushRx) h
    | view v => exact quiet_pushResult (fun _ _ => State.shows_pushFq) h
    | txByte b => exact quiet_pushResult (fun _ _ => State.shows_pushTx) h
  · cases h

theorem quiet_qPop {who : Role} {q : QId} (h : exec (.qPop who q) s = .next t) : s.Quiet t := by
  change execQPop who q s = .next t at h
  unfold execQPop at h
  split at h
  · cases q with
    | rxq => exact quiet_popByteResult (fun _ _ => State.shows_popRx) h
    | fq => exact quiet_popViewResult (fun _ _ => State.shows_popFq) h
    | txq => exact quiet_popByteResult (fun _ _ => State.shows_popTx) h
  · cases h

end

/-! ## The rows -/

/-- A row that runs where it is selected shows what its effect shows. -/
theorem shows_onRow {s t u : State} {sel : Bool} (h : onRow sel (.next u) = .next t) (hu : s.Shows u []) : s.Shows t [] := by
  obtain ⟨-, he⟩ := (onRow_next_iff _ _ _).1 h
  cases he
  exact hu

/-- A command that runs with the port free shows what its effect shows. -/
theorem quiet_onIdle {s t u : State} (h : onIdle s (.next u) = .next t) (hu : s.Quiet u) : s.Quiet t := by
  obtain ⟨-, he⟩ := (onIdle_next_iff _ _ _).1 h
  cases he
  exact hu

theorem shows_pRdRbrace {s t : State} (h : execPRdRbrace s = .next t) : s.Shows t [] := by
  have hend : s.Shows s.endData [] := .of_eq rfl rfl rfl
  obtain ⟨-, ⟨u, hu, rfl⟩ | ⟨u, hu, rfl⟩⟩ := execPRdRbrace_cases h
  · exact (hend.trans (State.shows_pushFq hu)).trans (.of_eq rfl rfl rfl)
  · exact ((hend.trans (State.shows_pushFq hu)).trans u.shows_resetIdx).trans (u.resetIdx.shows_enterError _)

/-- A transition of the parser shows nothing at a port (R140, R242). -/
theorem shows_of_isParserRow {s t : State} {i : Instr} (hi : isParserRow i = true) (h : exec i s = .next t) :
    s.Shows t [] := by
  cases i with
  | pOvf st c => exact shows_onRow h (s.shows_resetIdx.trans (s.resetIdx.shows_enterError _))
  | pWsLbrace => exact shows_onRow h (.of_eq rfl rfl rfl)
  | pWsOther c => exact shows_onRow h (.of_eq rfl rfl rfl)
  | pWpP => exact shows_onRow h (.of_eq rfl rfl rfl)
  | pWpOther c => exact shows_onRow h (s.shows_enterError _)
  | pWpcColon => exact shows_onRow h (.of_eq rfl rfl rfl)
  | pWpcOther c => exact shows_onRow h (s.shows_enterError _)
  | pRpColon => exact shows_onRow h (.of_eq rfl rfl rfl)
  | pRpOther c => exact shows_onRow h (.of_eq rfl rfl rfl)
  | pWdD => exact shows_onRow h (.of_eq rfl rfl rfl)
  | pWdOther c => exact shows_onRow h (s.shows_enterError _)
  | pWdcColon => exact shows_onRow h (.of_eq rfl rfl rfl)
  | pWdcOther c => exact shows_onRow h (s.shows_enterError _)
  | pRdRbrace => exact shows_pRdRbrace h
  | pRdOther c => exact shows_onRow h (.of_eq rfl rfl rfl)
  | pErLbrace => exact shows_onRow h (.of_eq rfl rfl rfl)
  | pErOther c => exact shows_onRow h (.of_eq rfl rfl rfl)
  | _ => cases hi

/-- A class row shows nothing at a port (R96). -/
theorem shows_of_isClassRow {s t : State} {i : Instr} (hi : isClassRow i = true) (h : exec i s = .next t) :
    s.Shows t [] := by
  cases i with
  | clsDigit07 d => cases h; exact .of_eq rfl rfl rfl
  | clsDigit89 d => cases h; exact .of_eq rfl rfl rfl
  | clsMinus => cases h; exact .of_eq rfl rfl rfl
  | clsComma => cases h; exact .of_eq rfl rfl rfl
  | clsDot => cases h; exact .of_eq rfl rfl rfl
  | clsOther b => exact shows_onRow h (.of_eq rfl rfl rfl)
  | _ => cases hi

/-- The acceptance of an encoder operation shows nothing at a port (R203). -/
theorem quiet_acceptFrame {s t : State} {n : Nat} {path : List Byte} {texts : List (List Byte)}
    (h : onIdle s (acceptFrame s n path texts) = .next t) : s.Quiet t := by
  obtain ⟨-, hacc⟩ := (onIdle_next_iff _ _ _).1 h
  obtain ⟨-, rfl⟩ := (acceptFrame_next_iff _ _ _ _ _).1 hacc
  exact .of_eq rfl rfl rfl

theorem quiet_eFloat {s t : State} {path : List Byte} {vals : List Word} (h : exec (.eFloat path vals) s = .next t) :
    s.Quiet t := by
  change execEFloat path vals s = .next t at h
  unfold execEFloat at h
  split at h
  · exact quiet_acceptFrame h
  · obtain ⟨-, hr⟩ := (onIdle_next_iff _ _ _).1 h
    cases hr

/-- A reserved code shows its completion and nothing else (R101). -/
theorem State.quiet_reserved (s : State) (op : BitVec 4) : s.Quiet (s.reserved op) :=
  (s.shows_raise _).quiet.trans (State.quiet_done _ _)

/-- A command other than D.POLL shows at most its completion (R105, R186, R222). -/
theorem quiet_of_isCommandRow {s t : State} {i : Instr} (hi : isCommandRow i = true) (hd : i ≠ .dPoll)
    (h : exec i s = .next t) : s.Quiet t := by
  cases i with
  | pPoll => exact quiet_onIdle h (.of_eq rfl rfl rfl)
  | dPoll => exact absurd rfl hd
  | nSet cb =>
    have hset : s.Quiet { s with ncb := cb } := .of_eq rfl rfl rfl
    exact quiet_onIdle h (hset.trans (State.quiet_done _ _))
  | eNone path => exact quiet_acceptFrame h
  | eInt path vals => exact quiet_acceptFrame h
  | eFloat path vals => exact quiet_eFloat h
  | eStr path strs => exact quiet_acceptFrame h
  | cmdReserved0 => exact quiet_onIdle h (s.quiet_reserved _)
  | cmdReserved8F low => exact quiet_onIdle h (s.quiet_reserved _)
  | _ => cases hi

/-- No row but D.POLL calls a handler, and no row notifies (R186, R222). -/
theorem quiet_of_exec {s t : State} {i : Instr} (hd : i ≠ .dPoll) (h : exec i s = .next t) : s.Quiet t := by
  cases hp : isParserRow i with
  | true => exact (shows_of_isParserRow hp h).quiet
  | false =>
    cases hc : isClassRow i with
    | true => exact (shows_of_isClassRow hc h).quiet
    | false =>
      cases hm : isCommandRow i with
      | true => exact quiet_of_isCommandRow hm hd h
      | false =>
        cases i with
        | qPush who item => exact quiet_qPush h
        | qPop who q => exact quiet_qPop h
        | rxPush b => exact quiet_pushResult (fun _ _ => State.shows_pushRx) h
        | txPop => exact quiet_popByteResult (fun _ _ => State.shows_popTx) h
        | rst =>
          change execRst s = .next t at h
          unfold execRst at h
          split at h
          · cases h
          · cases h
            exact .of_eq rfl rfl rfl
        | _ => simp [isParserRow, isClassRow, isCommandRow] at hp hc hm

/-! ## D.POLL and E.EMIT -/

/-- D.POLL shows at most one handler call and then its completion (R170, R186). -/
theorem shows_dPoll {s t : State} (h : execDPoll s = .next t) :
    s.Quiet t ∨ ∃ c, s.Shows t [.call c, .cmdDone true] := by
  obtain ⟨u, hu, rfl⟩ | ⟨u, v, hu, -, hv⟩ := execDPoll_next h
  · exact .inl ((State.shows_popFq hu).quiet.trans (u.quiet_done _))
  · have hpop := State.shows_popFq hu
    obtain rfl | ⟨r, rfl⟩ | ⟨r, data, -, hdel⟩ := State.dispatchView_next hv
    · exact .inl ((hpop.trans (u.shows_raise _)).quiet.trans (State.quiet_done _ _))
    · exact .inr ⟨_, (hpop.trans (u.shows_emitOut _)).trans (State.shows_done _ _)⟩
    · have hscan : s.Shows { u with scan := Scan.start } [] := hpop.trans (.of_eq rfl rfl rfl)
      obtain ⟨e, rfl⟩ | ⟨w, ty, vals, hw, rfl⟩ := State.deliver_next hdel
      · exact .inl ((hscan.trans (State.shows_raise _ _)).quiet.trans (State.quiet_done _ _))
      · have hnote := hscan.trans (State.shows_noteTruncation _ (items data).length)
        have hvals : s.Shows w [] := by
          obtain ⟨k, rfl⟩ | rfl := State.payloadVals_ok hw
          · exact hnote.trans (.of_eq rfl rfl rfl)
          · exact hnote.trans (.of_eq rfl rfl rfl)
        exact .inr ⟨_, (hvals.trans (w.shows_emitOut _)).trans (State.shows_done _ _)⟩

/-- The notifications of one byte are no handler calls. -/
theorem not_isCall_of_mem_notices {cb : Option Nat} {n : Nat} {o : Out} (h : o ∈ notices cb n) : o.isCall = false := by
  cases cb with
  | none => simp [notices] at h
  | some id =>
    rw [List.eq_of_mem_replicate h]
    rfl

/-- E.EMIT shows at most a notification and a completion, and a notification only with a byte of a running frame (R204, R222). -/
theorem shows_emit {s t : State} (h : s.emit = .next t) :
    ∃ os, s.Shows t os ∧ (∀ o ∈ os, o.isCall = false) ∧ (s.encRem = [] → os = []) := by
  obtain ⟨-, rfl⟩ | ⟨b, c, cs, u, he, hu, rfl⟩ | ⟨b, u, he, hu, rfl⟩ | ⟨b, cs, u, he, hu, rfl⟩ := State.emit_cases h
  · exact ⟨[], .of_eq rfl rfl rfl, by simp, fun _ => rfl⟩
  · have hset : s.Shows { u with encRem := c :: cs, encSent := u.encSent + 1 } [] :=
      (State.shows_pushTx hu).trans (.of_eq rfl rfl rfl)
    exact ⟨_, hset.trans (State.shows_fire _), fun o ho => not_isCall_of_mem_notices ho, by simp [he]⟩
  · have hset : s.Shows { u with encRem := [], encSent := 0 } [] := (State.shows_pushTx hu).trans (.of_eq rfl rfl rfl)
    refine ⟨_, (hset.trans (State.shows_fire _)).trans (State.shows_done _ true), fun o ho => ?_, by simp [he]⟩
    rcases List.mem_append.1 ho with ho | ho
    · exact not_isCall_of_mem_notices ho
    · rw [List.mem_singleton.1 ho]
      rfl
  · have hset : s.Shows { u with encRem := [], encSent := 0 } [] := (State.shows_pushTx hu).trans (.of_eq rfl rfl rfl)
    exact ⟨_, (hset.trans (State.shows_raise _ _)).trans (State.shows_done _ false), by simp [Out.isCall],
      by simp [he]⟩

/-! ## The step -/

/-- What the ports show in one step: at most one handler call, and only in a D.POLL; a notification only in an encoder's turn. -/
structure State.StepShows (s t : State) (os : List Out) : Prop where
  shows : s.Shows t os
  oneCall : (os.filter Out.isCall).length ≤ 1
  callInDPoll : (∃ o ∈ os, o.isCall = true) → ∃ c rest, s.sched = .port (.cmd c) :: rest ∧ c.op = 0x2
  notifyInEmit : (∃ o ∈ os, o.isNotify = true) → s.encRem ≠ [] ∧ ∃ rest, s.sched = .task :: rest

theorem State.Quiet.stepShows {s t : State} (h : s.Quiet t) : ∃ os, s.StepShows t os := by
  obtain ⟨os, hs, hq⟩ := h
  have hc : os.filter Out.isCall = [] := List.filter_eq_nil_iff.2 fun o ho => by simp [hq o ho]
  exact ⟨os, hs, by simp [hc], fun ⟨o, ho, h1⟩ => by simp [hq o ho] at h1,
    fun ⟨o, ho, h1⟩ => by simp [hq o ho] at h1⟩

/-- Taking the turn shows nothing. -/
theorem State.shows_sched (s : State) (rest : List Turn) : s.Shows { s with sched := rest } [] := .of_eq rfl rfl rfl

theorem stepShows_of_transaction {s t : State} {p : PortSig} {rest : List Turn} {i : Instr}
    (hs : s.sched = .port p :: rest) (hd : decode (.port p) = .ok i) (he : exec i { s with sched := rest } = .next t) :
    ∃ os, s.StepShows t os := by
  by_cases hi : i = .dPoll
  · subst hi
    obtain ⟨c, rfl, hop⟩ := eq_cmd_of_decode_dPoll hd
    rcases shows_dPoll he with hq | ⟨k, hk⟩
    · exact ((s.shows_sched rest).quiet.trans hq).stepShows
    · exact ⟨_, (s.shows_sched rest).trans hk, by simp [List.filter, Out.isCall],
        fun _ => ⟨c, rest, hs, hop⟩, by simp [Out.isNotify]⟩
  · exact ((s.shows_sched rest).quiet.trans (quiet_of_exec hi he)).stepShows

theorem stepShows_of_emit {s t : State} {rest : List Turn} (hs : s.sched = .task :: rest)
    (he : ({ s with sched := rest } : State).emit = .next t) : ∃ os, s.StepShows t os := by
  obtain ⟨os, hos, hc, hn⟩ := shows_emit he
  have hcalls : os.filter Out.isCall = [] := List.filter_eq_nil_iff.2 fun o ho => by simp [hc o ho]
  refine ⟨os, (s.shows_sched rest).trans hos, by simp [hcalls], fun ⟨o, ho, h1⟩ => by simp [hc o ho] at h1,
    fun ⟨o, ho, _⟩ => ⟨fun hnil => ?_, rest, hs⟩⟩
  rw [hn hnil] at ho
  cases ho

/-- What every step that goes on shows, by the kind of its turn. -/
theorem stepShows_of_step {s t : State} (h : step s = .next t) : ∃ os, s.StepShows t os := by
  cases stepTaken_of_step h with
  | noTurn => exact State.Quiet.stepShows (.of_eq rfl rfl rfl)
  | idlePort => exact (s.shows_sched _).quiet.stepShows
  | transaction hs _ hd he => exact stepShows_of_transaction hs hd he
  | pollByte _ _ hpop hd he =>
    have hbyte := shows_of_isParserRow (isParserRow_of_decode hd) he
    exact (((s.shows_sched _).trans (State.shows_popRx hpop)).trans hbyte).quiet.stepShows
  | @pollEnd rest u _ _ hpop =>
    have hend : s.Shows { u with pollActive := false } [] :=
      ((s.shows_sched _).trans (State.shows_popRx hpop)).trans (.of_eq rfl rfl rfl)
    exact (hend.quiet.trans (State.quiet_done _ true)).stepShows
  | emitByte hs _ he => exact stepShows_of_emit hs he
  | syncP => exact ((s.shows_sched _).trans (State.shows_syncP _ _)).quiet.stepShows
  | syncC => exact ((s.shows_sched _).trans (State.shows_syncC _ _)).quiet.stepShows

/-- Settles O18, from what a step shows. -/
theorem stepKeepsConfigurationAndRecord : Obligations.StepKeepsConfigurationAndRecord := by
  intro s t h
  obtain ⟨os, hs, hone, hcall, hnotify⟩ := stepShows_of_step h
  obtain ⟨es, hes⟩ := hs.events
  exact ⟨hs.cfg, ⟨es, hes.symm⟩, os, hs.outs, hone, hcall, hnotify⟩

end Sys2Proof.Machine
end

section
/-! The invariant of the whole engine: what each operation of the model does to it, and that every step keeps it (R128, R159, R162,
R263). -/

namespace Sys2Proof.Machine

section
variable {s t : State}

/-! ## The layout, state by state (R159) -/

theorem State.layout_iff_of_waitStart (hst : s.pstate = .waitStart) : s.layout ↔ s.w = 0 := by
  simp only [State.layout, hst]

theorem State.layout_iff_of_waitP (hst : s.pstate = .waitP) : s.layout ↔ s.w = 0 := by
  simp only [State.layout, hst]

theorem State.layout_iff_of_waitPColon (hst : s.pstate = .waitPColon) : s.layout ↔ s.w = 0 := by
  simp only [State.layout, hst]

theorem State.layout_iff_of_readPath (hst : s.pstate = .readPath) :
    s.layout ↔ s.pathStart = 0 ∧ s.w ≤ s.cfg.size ∧ s.scrWritten s.w := by
  simp only [State.layout, hst]

theorem State.layout_iff_of_waitD (hst : s.pstate = .waitD) :
    s.layout ↔ s.pathStart = 0 ∧ s.w = s.pathLen + 1 ∧ s.w ≤ s.cfg.size ∧
      Memory.read s.scr s.pathLen = some sentinel ∧ s.scrWritten s.w := by
  simp only [State.layout, hst]

theorem State.layout_iff_of_waitDColon (hst : s.pstate = .waitDColon) :
    s.layout ↔ s.pathStart = 0 ∧ s.w = s.pathLen + 1 ∧ s.w ≤ s.cfg.size ∧
      Memory.read s.scr s.pathLen = some sentinel ∧ s.scrWritten s.w := by
  simp only [State.layout, hst]

theorem State.layout_iff_of_readData (hst : s.pstate = .readData) :
    s.layout ↔ s.pathStart = 0 ∧ s.dataStart = s.pathLen + 1 ∧ s.dataStart ≤ s.w ∧ s.w ≤ s.cfg.size ∧
      Memory.read s.scr s.pathLen = some sentinel ∧ s.scrWritten s.w := by
  simp only [State.layout, hst]

theorem State.layout_iff_of_error (hst : s.pstate = .error) : s.layout ↔ s.w < s.cfg.size := by
  simp only [State.layout, hst]

/-- The layout rests on the bytes below the write index alone: that they are written, and on the sentinel after the path. -/
theorem State.layout_withScr {m : Memory Byte} (hl : s.layout)
    (hw : ∀ a < s.w, (Memory.read s.scr a).isSome = true → (Memory.read m a).isSome = true)
    (hp : s.pathLen < s.w → Memory.read s.scr s.pathLen = some sentinel → Memory.read m s.pathLen = some sentinel) :
    ({ s with scr := m } : State).layout := by
  cases hst : s.pstate with
  | waitStart => exact (State.layout_iff_of_waitStart rfl).2 ((State.layout_iff_of_waitStart hst).1 hl)
  | waitP => exact (State.layout_iff_of_waitP rfl).2 ((State.layout_iff_of_waitP hst).1 hl)
  | waitPColon => exact (State.layout_iff_of_waitPColon rfl).2 ((State.layout_iff_of_waitPColon hst).1 hl)
  | readPath =>
    obtain ⟨hps, hsize, hwr⟩ := (State.layout_iff_of_readPath hst).1 hl
    exact (State.layout_iff_of_readPath rfl).2 ⟨hps, hsize, fun a ha => hw a ha (hwr a ha)⟩
  | waitD =>
    obtain ⟨hps, hpl, hsize, hsen, hwr⟩ := (State.layout_iff_of_waitD hst).1 hl
    exact (State.layout_iff_of_waitD rfl).2 ⟨hps, hpl, hsize, hp (by omega) hsen, fun a ha => hw a ha (hwr a ha)⟩
  | waitDColon =>
    obtain ⟨hps, hpl, hsize, hsen, hwr⟩ := (State.layout_iff_of_waitDColon hst).1 hl
    exact (State.layout_iff_of_waitDColon rfl).2 ⟨hps, hpl, hsize, hp (by omega) hsen, fun a ha => hw a ha (hwr a ha)⟩
  | readData =>
    obtain ⟨hps, hds, hdw, hsize, hsen, hwr⟩ := (State.layout_iff_of_readData hst).1 hl
    exact (State.layout_iff_of_readData rfl).2
      ⟨hps, hds, hdw, hsize, hp (by omega) hsen, fun a ha => hw a ha (hwr a ha)⟩
  | error => exact (State.layout_iff_of_error rfl).2 ((State.layout_iff_of_error hst).1 hl)

/-! ## The invariant, one part of the state at a time -/

theorem State.size_pos (s : State) : 0 < s.cfg.size := Nat.lt_of_lt_of_le Nat.zero_lt_two s.cfg.size_ge

/-- The invariant says nothing of the notifier slot, the scan, the draws, the turns to come and the records. -/
theorem State.Inv.withRecords (h : s.Inv) (ncb : Option Nat) (scan : Scan) (draws : Nat) (sched : List Turn)
    (events : List Event) (outs : List Out) :
    ({ s with ncb := ncb, scan := scan, draws := draws, sched := sched, events := events, outs := outs } : State).Inv :=
  ⟨h.rx, h.fq, h.tx, h.views, h.layout, h.scrWf, h.scrWithin, h.task⟩

theorem State.Inv.raise (h : s.Inv) (e : Event) : (s.raise e).Inv := h.withRecords _ _ _ _ _ _

theorem State.Inv.emitOut (h : s.Inv) (o : Out) : (s.emitOut o).Inv := h.withRecords _ _ _ _ _ _

theorem State.Inv.done (h : s.Inv) (ok : Bool) : (s.done ok).Inv := h.emitOut _

theorem State.Inv.fire (h : s.Inv) : s.fire.Inv := by
  unfold State.fire
  split
  · exact h.emitOut _
  · exact h

theorem State.Inv.noteTruncation (h : s.Inv) (n : Nat) : (s.noteTruncation n).Inv := by
  unfold State.noteTruncation
  split
  · exact h.raise _
  · exact h

theorem State.Inv.withRx (h : s.Inv) {q : Queue Byte} (hq : q.inv s.cfg.rx) : ({ s with rx := q } : State).Inv :=
  ⟨hq, h.fq, h.tx, h.views, h.layout, h.scrWf, h.scrWithin, h.task⟩

theorem State.Inv.withTx (h : s.Inv) {q : Queue Byte} (hq : q.inv s.cfg.tx) : ({ s with tx := q } : State).Inv :=
  ⟨h.rx, h.fq, hq, h.views, h.layout, h.scrWf, h.scrWithin, h.task⟩

theorem State.Inv.withFq (h : s.Inv) {q : Queue View} (hq : q.inv s.cfg.fq)
    (hv : ∀ v ∈ q.live s.cfg.fq, s.viewOk v) :
    ({ s with fq := q } : State).Inv :=
  ⟨h.rx, hq, h.tx, hv, h.layout, h.scrWf, h.scrWithin, h.task⟩

theorem State.Inv.withTask (h : s.Inv) {active : Bool} {frame : List Byte} {sent : Nat}
    (ht : (active = true → frame = []) ∧ (frame = [] → sent = 0)) :
    ({ s with pollActive := active, encRem := frame, encSent := sent } : State).Inv :=
  ⟨h.rx, h.fq, h.tx, h.views, h.layout, h.scrWf, h.scrWithin, ht⟩

/-- The parser's registers move as its layout allows, and its generation never goes back. -/
theorem State.Inv.withParser (h : s.Inv)
    (ht : t = { s with pstate := t.pstate, w := t.w, pathStart := t.pathStart, pathLen := t.pathLen,
                       dataStart := t.dataStart, dataLen := t.dataLen, scrGen := t.scrGen })
    (hgen : s.scrGen ≤ t.scrGen) (hl : t.layout) : t.Inv := by
  rw [ht] at hl ⊢
  refine ⟨h.rx, h.fq, h.tx, fun v hv => ?_, hl, h.scrWf, h.scrWithin, h.task⟩
  obtain ⟨hpo, hdo, hsize, hg, hw⟩ := h.views v hv
  exact ⟨hpo, hdo, hsize, Nat.le_trans hg hgen, hw⟩

/-- The scratch buffer changes, and no written byte becomes unwritten. -/
theorem State.Inv.withScr (h : s.Inv) {m : Memory Byte} (hwf : Memory.wf m) (hin : Memory.within s.cfg.size m)
    (hw : ∀ a, (Memory.read s.scr a).isSome = true → (Memory.read m a).isSome = true)
    (hp : s.pathLen < s.w → Memory.read s.scr s.pathLen = some sentinel → Memory.read m s.pathLen = some sentinel) :
    ({ s with scr := m } : State).Inv := by
  refine ⟨h.rx, h.fq, h.tx, fun v hv => ?_, State.layout_withScr h.layout (fun a _ => hw a) hp, hwf, hin, h.task⟩
  obtain ⟨hpo, hdo, hsize, hg, hvw⟩ := h.views v hv
  exact ⟨hpo, hdo, hsize, hg, fun a ha => hw a (hvw a ha)⟩

/-- The byte at the write index may be written. -/
theorem State.Inv.writeScr (h : s.Inv) (hw : s.w < s.cfg.size) (b : Byte) : (s.writeScr s.w b).Inv := by
  refine h.withScr (Memory.write_wf _ _ h.scrWf) (Memory.write_within _ h.scrWithin hw) (fun a ha => ?_) fun hlt hsen => ?_
  · rw [Memory.read_write]
    split
    · rfl
    · exact ha
  · rwa [Memory.read_write_other _ _ _ _ (Nat.ne_of_lt hlt)]

/-- A payload may be split in place: it writes sentinels alone, so the one after the path stands (R184). -/
theorem State.Inv.withSplitCommas (h : s.Inv) {a : Nat} {data : List Byte} (hd : a + data.length ≤ s.cfg.size) :
    ({ s with scr := splitCommas a data s.scr } : State).Inv := by
  refine h.withScr (splitCommas_wf _ _ h.scrWf) (splitCommas_within _ _ h.scrWithin hd) (fun c hc => ?_) fun _ hsen => ?_
  · rw [splitCommas_read]
    split
    · rfl
    · exact hc
  · rw [splitCommas_read, hsen, ite_self]

/-! ## Reset -/

/-- The invariant holds after reset (R50). -/
theorem State.inv_resetWith (c : Config) : (State.resetWith c).Inv where
  rx := Queue.inv_empty Byte (Nat.zero_lt_of_lt c.cRx_gt)
  fq := Queue.inv_empty View (Nat.zero_lt_of_lt c.cFq_gt)
  tx := Queue.inv_empty Byte (Nat.zero_lt_of_lt c.cTx_gt)
  views := by simp [Queue.live_empty]
  layout := (State.layout_iff_of_waitStart rfl).2 rfl
  scrWf := .nil
  scrWithin := by simp
  task := ⟨fun _ => rfl, fun _ => rfl⟩

theorem State.inv_resetState (s : State) : s.resetState.Inv := (State.inv_resetWith s.cfg).withRecords _ _ _ _ _ _

/-! ## The queues -/

theorem State.Inv.of_pushRx (h : s.Inv) {b : Byte} {ok : Bool} (hp : s.pushRx b = .ok (t, ok)) : t.Inv := by
  obtain ⟨-, -, rfl⟩ | ⟨-, hf, -, rfl⟩ := State.pushRx_cases hp
  · exact h.raise _
  · exact h.withRx (Queue.inv_pushed h.rx hf)

theorem State.Inv.of_pushTx (h : s.Inv) {b : Byte} {ok : Bool} (hp : s.pushTx b = .ok (t, ok)) : t.Inv := by
  obtain ⟨-, -, rfl⟩ | ⟨-, hf, -, rfl⟩ := State.pushTx_cases hp
  · exact h.raise _
  · exact h.withTx (Queue.inv_pushed h.tx hf)

/-- A view of the right layout may be queued. -/
theorem State.Inv.of_pushFq (h : s.Inv) {v : View} {ok : Bool} (hv : s.viewOk v) (hp : s.pushFq v = .ok (t, ok)) : t.Inv := by
  obtain ⟨-, -, rfl⟩ | ⟨-, hf, -, rfl⟩ := State.pushFq_cases hp
  · exact h.raise _
  · refine h.withFq (Queue.inv_pushed h.fq hf) fun x hx => ?_
    change x ∈ (s.fq.pushed s.cfg.fq v).live s.cfg.fq at hx
    rw [Queue.live_pushed h.fq hf] at hx
    rcases List.mem_append.1 hx with hx | hx
    · exact h.views x hx
    · exact List.mem_singleton.1 hx ▸ hv

theorem State.Inv.of_popRx (h : s.Inv) {r : Option Byte} (hp : s.popRx = .ok (t, r)) : t.Inv := by
  obtain ⟨-, -, rfl⟩ | ⟨b, -, he, -, -, rfl⟩ := State.popRx_cases hp
  · exact h.raise _
  · exact h.withRx (Queue.inv_popped h.rx he)

theorem State.Inv.of_popTx (h : s.Inv) {r : Option Byte} (hp : s.popTx = .ok (t, r)) : t.Inv := by
  obtain ⟨-, -, rfl⟩ | ⟨b, -, he, -, -, rfl⟩ := State.popTx_cases hp
  · exact h.raise _
  · exact h.withTx (Queue.inv_popped h.tx he)

theorem State.Inv.of_popFq (h : s.Inv) {r : Option View} (hp : s.popFq = .ok (t, r)) : t.Inv := by
  obtain ⟨-, -, rfl⟩ | ⟨v, -, he, -, hv, rfl⟩ := State.popFq_cases hp
  · exact h.raise _
  · refine h.withFq (Queue.inv_popped h.fq he) fun x hx => h.views x ?_
    rw [Queue.live_popped h.fq he hv]
    exact List.mem_cons_of_mem _ hx

/-- The view popped has the layout of a view, over bytes that still stand. -/
theorem State.Inv.viewOk_of_popFq (h : s.Inv) {v : View} (hp : s.popFq = .ok (t, some v)) : t.viewOk v := by
  obtain ⟨hn, -⟩ | ⟨x, hx, he, -, hv, rfl⟩ := State.popFq_cases hp
  · cases hn
  · cases hx
    exact h.views v (Queue.live_popped h.fq he hv ▸ List.mem_cons_self)

theorem State.Inv.syncP (h : s.Inv) (q : QId) : (s.syncP q).Inv := by
  cases q with
  | rxq => exact h.withRx (Queue.inv_syncP h.rx)
  | fq => exact h.withFq (Queue.inv_syncP h.fq) (Queue.live_syncP s.cfg.fq s.fq ▸ h.views)
  | txq => exact h.withTx (Queue.inv_syncP h.tx)

theorem State.Inv.syncC (h : s.Inv) (q : QId) : (s.syncC q).Inv := by
  cases q with
  | rxq => exact h.withRx (Queue.inv_syncC h.rx)
  | fq => exact h.withFq (Queue.inv_syncC h.fq) (Queue.live_syncC s.cfg.fq s.fq ▸ h.views)
  | txq => exact h.withTx (Queue.inv_syncC h.tx)

/-! ## The parser -/

/-- Writing the byte after the written ones leaves one more written. -/
theorem State.scrWritten_writeScr {n : Nat} (h : s.scrWritten n) (b : Byte) : (s.writeScr n b).scrWritten (n + 1) := by
  intro a ha
  rw [State.writeScr_scr, Memory.read_write]
  split
  · rfl
  · exact h a (by omega)

/-- A frame starts with nothing written (R142, R156). -/
theorem State.Inv.beginFrame (h : s.Inv) : s.beginFrame.Inv :=
  h.withParser rfl (Nat.le_succ _) ((State.layout_iff_of_waitP rfl).2 rfl)

/-- Error keeps the indices of a mismatch, which came below the size (R254). -/
theorem State.Inv.enterError (h : s.Inv) (hw : s.w < s.cfg.size) (e : Event) : (s.enterError e).Inv := by
  have herr : ({ s with pstate := .error } : State).Inv :=
    h.withParser rfl (Nat.le_refl _) ((State.layout_iff_of_error rfl).2 hw)
  exact herr.raise e

/-- Error after an overflow or a dropped frame finds the indices cleared (R254). -/
theorem State.Inv.resetIdx_enterError (h : s.Inv) (e : Event) : (s.resetIdx.enterError e).Inv := by
  have herr : ({ s.resetIdx with pstate := .error } : State).Inv :=
    h.withParser rfl (Nat.le_refl _) ((State.layout_iff_of_error rfl).2 s.size_pos)
  exact herr.raise e

/-- A byte of a path is appended (R149). -/
theorem State.Inv.append_of_readPath (h : s.Inv) (hst : s.pstate = .readPath) (hw : s.w < s.cfg.size) (c : Byte) :
    (s.append c).Inv := by
  obtain ⟨hps, -, hwr⟩ := (State.layout_iff_of_readPath hst).1 h.layout
  exact (h.writeScr hw c).withParser rfl (Nat.le_refl _)
    (Iff.mpr (State.layout_iff_of_readPath hst) ⟨hps, hw, State.scrWritten_writeScr hwr c⟩)

/-- A byte goes into the data and the write index moves on; the data's length may be recorded (R154, R155). -/
theorem State.Inv.store_of_readData (h : s.Inv) (hst : s.pstate = .readData) (hw : s.w < s.cfg.size) (c : Byte)
    (dl : Nat) :
    ({ s.writeScr s.w c with dataLen := dl, w := s.w + 1 } : State).Inv := by
  have hstored := h.writeScr hw c
  obtain ⟨-, -, -, -, hsen, -⟩ := (State.layout_iff_of_readData (s := s.writeScr s.w c) hst).1 hstored.layout
  obtain ⟨hps, hds, hdw, -, -, hwr⟩ := (State.layout_iff_of_readData hst).1 h.layout
  exact hstored.withParser rfl (Nat.le_refl _) (Iff.mpr (State.layout_iff_of_readData hst)
    ⟨hps, hds, Nat.le_succ_of_le hdw, hw, hsen, State.scrWritten_writeScr hwr c⟩)

/-- The sentinel ends the path (R148). -/
theorem State.Inv.endPath (h : s.Inv) (hst : s.pstate = .readPath) (hw : s.w < s.cfg.size) :
    ({ s.writeScr s.w sentinel with pathLen := s.w - s.pathStart, w := s.w + 1, pstate := .waitD } : State).Inv := by
  obtain ⟨hps, -, hwr⟩ := (State.layout_iff_of_readPath hst).1 h.layout
  have hlen : s.w - s.pathStart = s.w := by omega
  rw [hlen]
  exact (h.writeScr hw sentinel).withParser rfl (Nat.le_refl _) ((State.layout_iff_of_waitD rfl).2
    ⟨hps, rfl, hw, Memory.read_write_same _ _ _, State.scrWritten_writeScr hwr sentinel⟩)

/-- The view of a completed frame is `{0, P, P+1, L}` over written bytes (R61, R154). -/
theorem State.Inv.viewOk_frameView (h : s.Inv) (hst : s.pstate = .readData) (hw : s.w < s.cfg.size) :
    s.endData.viewOk s.endData.frameView := by
  obtain ⟨hps, hds, hdw, -, -, hwr⟩ := (State.layout_iff_of_readData hst).1 h.layout
  have hend : s.endData.frameView.pathLen + s.endData.frameView.dataLen + 2 = s.w + 1 := by
    change s.pathLen + (s.w - s.dataStart) + 2 = s.w + 1
    omega
  refine ⟨hps, hds, ?_, Nat.le_refl _, ?_⟩
  · rw [hend]
    exact hw
  · rw [hend]
    exact State.scrWritten_writeScr hwr sentinel

/-- The close brace queues the frame, or drops it with FQ full (R154). -/
theorem State.Inv.of_pRdRbrace (h : s.Inv) (he : execPRdRbrace s = .next t) : t.Inv := by
  obtain ⟨⟨hst, hw⟩, hpush⟩ := execPRdRbrace_cases he
  have hend : s.endData.Inv := h.store_of_readData hst hw sentinel (s.w - s.dataStart)
  have hview := h.viewOk_frameView hst hw
  obtain ⟨u, hu, rfl⟩ | ⟨u, hu, rfl⟩ := hpush
  · exact (hend.of_pushFq hview hu).withParser rfl (Nat.le_refl _) ((State.layout_iff_of_waitStart rfl).2 rfl)
  · exact (hend.of_pushFq hview hu).resetIdx_enterError _

/-- A row's effect keeps the invariant where the row is selected: so does the row. -/
theorem inv_of_onRow {u : State} {st : PState} {ok : Bool} (he : onRow (s.inRow st ok) (.next u) = .next t)
    (hu : s.pstate = st → s.w < s.cfg.size → u.Inv) : t.Inv := by
  obtain ⟨hsel, ho⟩ := (onRow_next_iff _ _ _).1 he
  obtain ⟨hst, hw, -⟩ := (State.inRow_iff _ _ _).1 hsel
  cases ho
  exact hu hst hw

/-- Every transition of the parser keeps the invariant (R159). -/
theorem State.Inv.of_exec_parserRow (h : s.Inv) {i : Instr} (hi : isParserRow i = true) (he : exec i s = .next t) :
    t.Inv := by
  cases i with
  | pOvf st c =>
    obtain ⟨-, ho⟩ := (onRow_next_iff _ _ _).1 he
    cases ho
    exact h.resetIdx_enterError _
  | pWsLbrace => exact inv_of_onRow he fun _ _ => h.beginFrame
  | pWsOther c => exact inv_of_onRow he fun _ _ => h
  | pWpP =>
    refine inv_of_onRow he fun hst _ => h.withParser rfl (Nat.le_refl _) ?_
    exact (State.layout_iff_of_waitPColon rfl).2 ((State.layout_iff_of_waitP hst).1 h.layout)
  | pWpOther c => exact inv_of_onRow he fun _ hw => h.enterError hw _
  | pWpcColon =>
    refine inv_of_onRow he fun hst _ => h.withParser rfl (Nat.le_refl _) ?_
    have hw : s.w = 0 := (State.layout_iff_of_waitPColon hst).1 h.layout
    exact (State.layout_iff_of_readPath rfl).2
      ⟨hw, hw ▸ Nat.zero_le _, fun a ha => absurd (hw ▸ ha) (Nat.not_lt_zero a)⟩
  | pWpcOther c => exact inv_of_onRow he fun _ hw => h.enterError hw _
  | pRpColon => exact inv_of_onRow he h.endPath
  | pRpOther c => exact inv_of_onRow he fun hst hw => h.append_of_readPath hst hw c
  | pWdD =>
    refine inv_of_onRow he fun hst _ => h.withParser rfl (Nat.le_refl _) ?_
    exact (State.layout_iff_of_waitDColon rfl).2 ((State.layout_iff_of_waitD hst).1 h.layout)
  | pWdOther c => exact inv_of_onRow he fun _ hw => h.enterError hw _
  | pWdcColon =>
    refine inv_of_onRow he fun hst _ => h.withParser rfl (Nat.le_refl _) ?_
    obtain ⟨hps, hpl, hsize, hsen, hwr⟩ := (State.layout_iff_of_waitDColon hst).1 h.layout
    exact (State.layout_iff_of_readData rfl).2 ⟨hps, hpl, Nat.le_refl _, hsize, hsen, hwr⟩
  | pWdcOther c => exact inv_of_onRow he fun _ hw => h.enterError hw _
  | pRdRbrace => exact h.of_pRdRbrace he
  | pRdOther c => exact inv_of_onRow he fun hst hw => h.store_of_readData hst hw c s.dataLen
  | pErLbrace => exact inv_of_onRow he fun _ _ => h.beginFrame
  | pErOther c => exact inv_of_onRow he fun _ _ => h
  | _ => cases hi

/-! ## The classifier and the command port -/

theorem State.Inv.of_exec_classRow (h : s.Inv) {i : Instr} (hi : isClassRow i = true) (he : exec i s = .next t) :
    t.Inv := by
  have hscan : ∀ k, (s.scanClass k).Inv := fun k => h.withRecords _ _ _ _ _ _
  cases i with
  | clsDigit07 d => cases he; exact hscan _
  | clsDigit89 d => cases he; exact hscan _
  | clsMinus => cases he; exact hscan _
  | clsComma => cases he; exact hscan _
  | clsDot => cases he; exact hscan _
  | clsOther b =>
    obtain ⟨-, ho⟩ := (onRow_next_iff _ _ _).1 he
    cases ho
    exact hscan _
  | _ => cases hi

/-- D.POLL keeps the invariant: a payload split in place lies inside the buffer (R61, R184). -/
theorem State.Inv.of_dPoll (h : s.Inv) (he : execDPoll s = .next t) : t.Inv := by
  obtain ⟨u, hu, rfl⟩ | ⟨u, v, hu, -, hv⟩ := execDPoll_next he
  · exact (h.of_popFq hu).done _
  · have hpop : u.Inv := h.of_popFq hu
    obtain rfl | ⟨r, rfl⟩ | ⟨r, data, hdata, hdel⟩ := State.dispatchView_next hv
    · exact (hpop.raise _).done _
    · exact (hpop.emitOut _).done _
    · have hscan : ({ u with scan := Scan.start } : State).Inv := hpop.withRecords _ _ _ _ _ _
      obtain ⟨e, rfl⟩ | ⟨w, ty, vals, hw, rfl⟩ := State.deliver_next hdel
      · exact (hscan.raise _).done _
      · have hnote := hscan.noteTruncation (items data).length
        suffices hvals : w.Inv from (hvals.emitOut _).done _
        obtain ⟨k, rfl⟩ | rfl := State.payloadVals_ok hw
        · exact hnote.withRecords _ _ _ _ _ _
        · obtain ⟨hlen, -⟩ := (State.readSlice_ok_iff _ _ _ _).1 hdata
          obtain ⟨-, hdo, hsize, -, -⟩ := h.viewOk_of_popFq hu
          refine hnote.withSplitCommas ?_
          simp only [State.noteTruncation_cfg]
          omega

/-- An encoder operation starts with no P.POLL running and a frame of at least one byte (R202, R203, R263). -/
theorem State.Inv.of_acceptFrame (h : s.Inv) {n : Nat} {path : List Byte} {texts : List (List Byte)}
    (he : onIdle s (acceptFrame s n path texts) = .next t) : t.Inv := by
  obtain ⟨hfree, hacc⟩ := (onIdle_next_iff _ _ _).1 he
  obtain ⟨hpoll, -⟩ := (State.busy_eq_false s).1 hfree
  obtain ⟨-, rfl⟩ := (acceptFrame_next_iff _ _ _ _ _).1 hacc
  exact h.withTask ⟨fun ha => by simp [hpoll] at ha, fun _ => rfl⟩

/-- A P.POLL starts with no frame byte left (R160, R263). -/
theorem State.Inv.of_pPoll (h : s.Inv) (he : execPPoll s = .next t) : t.Inv := by
  obtain ⟨hfree, ho⟩ := (onIdle_next_iff _ _ _).1 he
  obtain ⟨-, hrem⟩ := (State.busy_eq_false s).1 hfree
  obtain ⟨-, hsent⟩ := h.task
  cases ho
  exact h.withTask ⟨fun _ => hrem, hsent⟩

theorem State.Inv.of_eFloat (h : s.Inv) {path : List Byte} {vals : List Word} (he : execEFloat path vals s = .next t) :
    t.Inv := by
  unfold execEFloat at he
  split at he
  · exact h.of_acceptFrame he
  · obtain ⟨-, hr⟩ := (onIdle_next_iff _ _ _).1 he
    cases hr

/-- A command whose effect keeps the invariant keeps it. -/
theorem inv_of_onIdle {u : State} (he : onIdle s (.next u) = .next t) (hu : u.Inv) : t.Inv := by
  obtain ⟨-, ho⟩ := (onIdle_next_iff _ _ _).1 he
  cases ho
  exact hu

/-- Every command keeps the invariant (R263). -/
theorem State.Inv.of_exec_commandRow (h : s.Inv) {i : Instr} (hi : isCommandRow i = true) (he : exec i s = .next t) :
    t.Inv := by
  cases i with
  | pPoll => exact h.of_pPoll he
  | dPoll => exact h.of_dPoll he
  | nSet cb =>
    have hset : ({ s with ncb := cb } : State).Inv := h.withRecords _ _ _ _ _ _
    exact inv_of_onIdle he (hset.done _)
  | eNone path => exact h.of_acceptFrame he
  | eInt path vals => exact h.of_acceptFrame he
  | eFloat path vals => exact h.of_eFloat he
  | eStr path strs => exact h.of_acceptFrame he
  | cmdReserved0 => exact inv_of_onIdle he ((h.raise _).done _)
  | cmdReserved8F low => exact inv_of_onIdle he ((h.raise _).done _)
  | _ => cases hi

/-! ## The queue ports, RESET and the encoder's turn -/

theorem inv_of_pushResult {q : QId} {p : Except Fault (State × Bool)} (hp : ∀ u ok, p = .ok (u, ok) → u.Inv)
    (he : pushResult q p = .next t) : t.Inv := by
  obtain ⟨u, ok, hu, rfl⟩ := pushResult_next he
  exact (hp u ok hu).emitOut _

theorem inv_of_popByteResult {q : QId} {p : Except Fault (State × Option Byte)} (hp : ∀ u r, p = .ok (u, r) → u.Inv)
    (he : popByteResult q p = .next t) : t.Inv := by
  obtain ⟨u, r, hu, rfl⟩ := popByteResult_next he
  exact (hp u r hu).emitOut _

theorem inv_of_popViewResult {p : Except Fault (State × Option View)} (hp : ∀ u r, p = .ok (u, r) → u.Inv)
    (he : popViewResult p = .next t) : t.Inv := by
  obtain ⟨u, r, hu, rfl⟩ := popViewResult_next he
  exact (hp u r hu).emitOut _

/-- Q.PUSH keeps the invariant from any side other than the parser's, which alone may queue a view (R133). -/
theorem State.Inv.of_qPush (h : s.Inv) {who : Role} {item : QItem} (hwho : who ≠ .parser)
    (he : execQPush who item s = .next t) : t.Inv := by
  unfold execQPush at he
  split at he
  · next hrole =>
    cases item with
    | rxByte b => exact inv_of_pushResult (fun _ _ => h.of_pushRx) he
    | view v => exact absurd hrole hwho
    | txByte b => exact inv_of_pushResult (fun _ _ => h.of_pushTx) he
  · cases he

theorem State.Inv.of_qPop (h : s.Inv) {who : Role} {q : QId} (he : execQPop who q s = .next t) : t.Inv := by
  unfold execQPop at he
  split at he
  · cases q with
    | rxq => exact inv_of_popByteResult (fun _ _ => h.of_popRx) he
    | fq => exact inv_of_popViewResult (fun _ _ => h.of_popFq) he
    | txq => exact inv_of_popByteResult (fun _ _ => h.of_popTx) he
  · cases he

theorem inv_of_execRst (he : execRst s = .next t) : t.Inv := by
  unfold execRst at he
  split at he
  · cases he
  · cases he
    exact s.inv_resetState

/-- Every instruction keeps the invariant, unless someone drives the generic Q.PUSH as the parser. -/
theorem State.Inv.of_exec (h : s.Inv) {i : Instr} (hi : ∀ who item, i = .qPush who item → who ≠ .parser)
    (he : exec i s = .next t) : t.Inv := by
  cases hp : isParserRow i with
  | true => exact h.of_exec_parserRow hp he
  | false =>
    cases hc : isClassRow i with
    | true => exact h.of_exec_classRow hc he
    | false =>
      cases hm : isCommandRow i with
      | true => exact h.of_exec_commandRow hm he
      | false =>
        cases i with
        | qPush who item => exact h.of_qPush (hi who item rfl) he
        | qPop who q => exact h.of_qPop he
        | rxPush b => exact inv_of_pushResult (fun _ _ => h.of_pushRx) he
        | txPop => exact inv_of_popByteResult (fun _ _ => h.of_popTx) he
        | rst => exact inv_of_execRst he
        | _ => simp [isParserRow, isClassRow, isCommandRow] at hp hc hm

/-- One E.EMIT keeps the invariant with no P.POLL running: the count of bytes sent ends with the frame (R204, R263). -/
theorem State.Inv.of_emit (h : s.Inv) (ha : s.pollActive = false) (he : s.emit = .next t) : t.Inv := by
  have hended : ∀ {u b ok}, s.pushTx b = .ok (u, ok) → ({ u with encRem := [], encSent := 0 } : State).Inv := fun hu =>
    (h.of_pushTx hu).withTask ⟨fun _ => rfl, fun _ => rfl⟩
  obtain ⟨-, rfl⟩ | ⟨b, c, cs, u, -, hu, rfl⟩ | ⟨b, u, -, hu, rfl⟩ | ⟨b, cs, u, -, hu, rfl⟩ := State.emit_cases he
  · exact h
  · have hpoll : u.pollActive = false := by
      obtain ⟨-, -, rfl⟩ | ⟨-, -, -, rfl⟩ := State.pushTx_cases hu <;> exact ha
    exact State.Inv.fire ((h.of_pushTx hu).withTask ⟨fun hact => by simp [hpoll] at hact, fun hnil => by cases hnil⟩)
  · exact (hended hu).fire.done _
  · exact ((hended hu).raise _).done _

theorem State.Inv.endPoll (h : s.Inv) : s.endPoll.Inv := by
  obtain ⟨-, hsent⟩ := h.task
  exact (h.withTask ⟨fun _ => by contradiction, hsent⟩).done _

theorem State.Inv.withSched (h : s.Inv) (rest : List Turn) : ({ s with sched := rest } : State).Inv :=
  h.withRecords _ _ _ _ _ _

end

/-- Settles O35. -/
theorem resetMeetsInvariant : Obligations.ResetMeetsInvariant :=
  ⟨State.inv_resetWith, State.inv_resetWith Config.sample⟩

/-- Settles O36, by the kind of the step's turn. -/
theorem stepKeepsInvariant : Obligations.StepKeepsInvariant := by
  intro s t h hstep
  cases stepTaken_of_step hstep with
  | noTurn => exact h
  | idlePort => exact h.withSched _
  | transaction _ hp hd he =>
    refine (h.withSched _).of_exec (fun who item hi => ?_) he
    subst hi
    exact ne_parser_of_external hp hd
  | pollByte _ _ hpop hd he =>
    exact ((h.withSched _).of_popRx hpop).of_exec_parserRow (isParserRow_of_decode hd) he
  | pollEnd _ _ hpop => exact ((h.withSched _).of_popRx hpop).endPoll
  | @emitByte rest _ _ ha he => exact (h.withSched rest).of_emit ha he
  | syncP => exact (h.withSched _).syncP _
  | syncC => exact (h.withSched _).syncC _

end Sys2Proof.Machine
end

section
/-! The row that a byte selects in each state of the parser, and what running it does where it is selected (R95, R140 to R157). -/

namespace Sys2Proof.Machine

/-- The row that R95 selects for a byte in a state of the parser, where the overflow guard does not fire. -/
def parserRow (st : PState) (c : Byte) : Instr :=
  match st with
  | .waitStart => if c = chLBrace then .pWsLbrace else .pWsOther c
  | .waitP => if c = chP then .pWpP else .pWpOther c
  | .waitPColon => if c = chColon then .pWpcColon else .pWpcOther c
  | .readPath => if c = chColon then .pRpColon else .pRpOther c
  | .waitD => if c = chD then .pWdD else .pWdOther c
  | .waitDColon => if c = chColon then .pWdcColon else .pWdcOther c
  | .readData => if c = chRBrace then .pRdRbrace else .pRdOther c
  | .error => if c = chLBrace then .pErLbrace else .pErOther c

/-- The one byte that has a row of its own in each state of the parser; every other byte takes the state's OTHER row (R95). -/
def ownByte : PState → Byte
  | .waitStart | .error => chLBrace
  | .waitP => chP
  | .waitPColon | .readPath | .waitDColon => chColon
  | .waitD => chD
  | .readData => chRBrace

/-- What a byte does in each state of the parser, where the overflow guard does not fire (R142 to R157). -/
def State.byteEffect (s : State) (c : Byte) : Host.Outcome State Fault Refusal :=
  match s.pstate with
  | .waitStart => if c = chLBrace then .next s.beginFrame else .next s
  | .waitP => if c = chP then .next { s with pstate := .waitPColon } else .next (s.enterError (.malformed .waitP c))
  | .waitPColon =>
    if c = chColon then .next { s with pathStart := s.w, pstate := .readPath }
    else .next (s.enterError (.malformed .waitPColon c))
  | .readPath =>
    if c = chColon then .next { s.writeScr s.w sentinel with pathLen := s.w - s.pathStart, w := s.w + 1, pstate := .waitD }
    else .next (s.append c)
  | .waitD => if c = chD then .next { s with pstate := .waitDColon } else .next (s.enterError (.malformed .waitD c))
  | .waitDColon =>
    if c = chColon then .next { s with dataStart := s.w, pstate := .readData }
    else .next (s.enterError (.malformed .waitDColon c))
  | .readData => if c = chRBrace then execPRdRbrace s else .next (s.append c)
  | .error => if c = chLBrace then .next s.beginFrame else .next s

/-- A key's state code and byte are those it was made of (R95). -/
theorem keyState_parserKey (k : BitVec 3) (c : Byte) : keyState (parserKey k c) = k :=
  BitVec.extractLsb'_append_eq_left

theorem keyByte_parserKey (k : BitVec 3) (c : Byte) : keyByte (parserKey k c) = c :=
  BitVec.extractLsb'_append_eq_right

/-- A key equals another exactly when its state code and its byte do. -/
theorem parserKey_eq_iff (k : BitVec 3) (c : Byte) (key : BitVec 11) :
    parserKey k c = key ↔ k = keyState key ∧ c = keyByte key := by
  constructor
  · rintro rfl
    exact ⟨(keyState_parserKey k c).symm, (keyByte_parserKey k c).symm⟩
  · rintro ⟨rfl, rfl⟩
    exact (BitVec.extractLsb'_append_extractLsb'_eq_extractLsb' rfl).trans BitVec.extractLsb'_eq_self

/-- A row of one byte reads the whole key (R95). -/
theorem parserKey_and_all (k : BitVec 3) (c : Byte) (key : BitVec 11) :
    (parserKey k c &&& 0x7FF#11 == key) = (k == keyState key && c == keyByte key) := by
  have hall : parserKey k c &&& 0x7FF#11 = parserKey k c := BitVec.and_allOnes
  rw [hall, Bool.eq_iff_iff]
  simp [parserKey_eq_iff]

/-- An OTHER row reads the state code alone (R95). -/
theorem parserKey_and_state (k : BitVec 3) (c : Byte) (key : BitVec 11) :
    (parserKey k c &&& 0x700#11 == key) = (k == keyState key && 0 == keyByte key) := by
  have hstate : parserKey k c &&& 0x700#11 = parserKey k 0 := by
    change (k ++ c) &&& (BitVec.allOnes 3 ++ 0#8) = k ++ 0#8
    rw [BitVec.and_append, BitVec.and_allOnes, BitVec.and_zero]
  rw [hstate, Bool.eq_iff_iff]
  simp [parserKey_eq_iff]

/-- The key of a state and a byte decodes to the state's row for the byte (R95). -/
theorem decode_parserKey_false (st : PState) (c : Byte) :
    decode (.pbyte false (parserKey st.code c)) = .ok (parserRow st c) := by
  rw [decode, decodeKey, keyState_parserKey, keyByte_parserKey]
  by_cases hc : c = ownByte st
  · subst hc
    cases st <;> rfl
  · simp only [selectPByte, pbyteTable, List.find?]
    cases st <;> simp only [ownByte, BitVec.ofNat_eq_ofNat] at hc <;>
      simp [parserKey_and_all, parserKey_and_state, keyState, keyByte, PState.code, parserRow, beq_false_of_ne hc, hc]

/-- With the guard on, every key selects P.OVF (R95, R141). -/
theorem decode_parserKey_true (st : PState) (c : Byte) :
    decode (.pbyte true (parserKey st.code c)) = .ok (.pOvf st.code c) := by
  rw [decode, decodeKey, keyState_parserKey, keyByte_parserKey]
  simp [selectPByte, pbyteTable]

/-! ## A byte parsed -/

section
variable {s : State} {c : Byte}

/-- A byte that overflows the scratch buffer drops the frame in progress (R141). -/
theorem State.parseByte_of_guard (hw : s.cfg.size ≤ s.w) :
    s.parseByte c = .next (s.resetIdx.enterError (.scratchOverflow c)) := by
  have hg : s.guard = true := decide_eq_true hw
  have hd : decode (s.byteSignal c) = .ok (.pOvf s.pstate.code c) := by
    rw [State.byteSignal, hg, decode_parserKey_true]
  simp only [State.parseByte, hd, exec, execPOvf, onRow, hg, beq_self_eq_true, Bool.and_self, if_true]

/-- A row whose condition holds has its effect. -/
theorem onRow_of_selected {st : PState} {ok : Bool} {o : Host.Outcome State Fault Refusal} (hst : s.pstate = st)
    (hw : s.w < s.cfg.size) (hok : ok = true) : onRow (s.inRow st ok) o = o :=
  if_pos ((State.inRow_iff _ _ _).2 ⟨hst, hw, hok⟩)

/-- The two rows of a state, for its own byte and for the others, each have their effect. -/
theorem exec_ite_of_selected {st : PState} {own : Byte} {i j : Instr} {o u : Host.Outcome State Fault Refusal}
    (hst : s.pstate = st) (hw : s.w < s.cfg.size) (hi : exec i s = onRow (s.inRow st true) o)
    (hj : exec j s = onRow (s.inRow st (c != own)) u) :
    exec (if c = own then i else j) s = if c = own then o else u := by
  split
  · exact hi.trans (onRow_of_selected hst hw rfl)
  · next hc => exact hj.trans (onRow_of_selected hst hw (bne_iff_ne.2 hc))

/-- The row that a byte selects has its effect. -/
theorem exec_parserRow (hw : s.w < s.cfg.size) : exec (parserRow s.pstate c) s = s.byteEffect c := by
  cases hst : s.pstate with
  | readData =>
    simp only [parserRow, State.byteEffect, hst]
    split
    · rfl
    · next hc => exact onRow_of_selected hst hw (bne_iff_ne.2 hc)
  | _ =>
    simp only [parserRow, State.byteEffect, hst]
    exact exec_ite_of_selected hst hw rfl rfl

/-- A byte that fits has the effect of its row (R140, R142 to R157). -/
theorem State.parseByte_of_lt (hw : s.w < s.cfg.size) : s.parseByte c = s.byteEffect c := by
  have hg : s.guard = false := decide_eq_false (Nat.not_le_of_lt hw)
  have hd : decode (s.byteSignal c) = .ok (parserRow s.pstate c) := by
    rw [State.byteSignal, hg, decode_parserKey_false]
  rw [State.parseByte, hd]
  exact exec_parserRow hw

end

end Sys2Proof.Machine
end

section
/-! A whole frame parsed: the bytes of path and data are stored one after the other, each followed by a sentinel, and the close brace
queues the view over them (R61, R154, R159, R215). -/

namespace Sys2Proof.Machine

/-! ## Elements written one after the other -/

/-- Writes the elements of a list at `a` and up. -/
def Memory.writes {α : Type} (m : Memory α) (a : Nat) : List α → Memory α
  | [] => m
  | x :: xs => Memory.writes (Memory.write m a x) (a + 1) xs

/-- What a read gives after them: the element written at its address, and what was there before outside their range. -/
theorem Memory.read_writes {α : Type} (m : Memory α) (a : Nat) (xs : List α) (c : Nat) :
    Memory.read (Memory.writes m a xs) c = if a ≤ c ∧ c < a + xs.length then xs[c - a]? else Memory.read m c := by
  induction xs generalizing m a with
  | nil => exact (if_neg (by simp)).symm
  | cons x xs ih =>
    rw [Memory.writes, ih, Memory.read_write, List.length_cons]
    rcases Nat.lt_trichotomy c a with hlt | rfl | hgt
    · rw [if_neg (by omega), if_neg (by omega), if_neg (by omega)]
    · simp
    · have hsub : c - a = c - (a + 1) + 1 := by omega
      rw [if_neg (show c ≠ a by omega), hsub, List.getElem?_cons_succ]
      exact if_congr (by omega) rfl rfl

theorem Memory.writes_append {α : Type} (m : Memory α) (a : Nat) (xs ys : List α) :
    Memory.writes m a (xs ++ ys) = Memory.writes (Memory.writes m a xs) (a + xs.length) ys := by
  induction xs generalizing m a with
  | nil => rfl
  | cons x xs ih => rw [List.cons_append, Memory.writes, ih, Memory.writes, List.length_cons, Nat.add_right_comm, Nat.add_assoc]

section
variable {s t : State} {c : Byte} {path data xs ys zs : List Byte}

/-- A slice over elements written together is those elements (R36). -/
theorem State.readSlice_of_writes {m : Memory Byte} (hscr : s.scr = Memory.writes m 0 (xs ++ ys ++ zs))
    (hfit : xs.length + ys.length ≤ s.cfg.size) : s.readSlice xs.length ys.length = .ok ys := by
  refine (State.readSlice_ok_iff _ _ _ _).2 ⟨rfl, fun i hi => (State.readScr_ok_iff _ _ _).2 ⟨by omega, ?_⟩⟩
  rw [hscr, Memory.read_writes, if_pos ⟨Nat.zero_le _, by simp; omega⟩, Nat.sub_zero, List.append_assoc,
    List.getElem?_append_right (Nat.le_add_right _ _), Nat.add_sub_cancel_left, List.getElem?_append_left hi,
    List.getElem?_eq_getElem hi]

/-! ## Runs of the parser -/

theorem State.parseBytes_cons_of_next (h : s.parseByte c = .next t) : s.parseBytes (c :: xs) = t.parseBytes xs := by
  rw [State.parseBytes, h]

theorem State.parseBytes_append_of_next (h : s.parseBytes xs = .next t) : s.parseBytes (xs ++ ys) = t.parseBytes ys := by
  induction xs generalizing s with
  | nil => cases h; rfl
  | cons c xs ih =>
    cases hc : s.parseByte c with
    | next u =>
      rw [State.parseBytes_cons_of_next hc] at h
      rw [List.cons_append, State.parseBytes_cons_of_next hc, ih h]
    | fault f => simp [State.parseBytes, hc] at h
    | refused r => simp [State.parseBytes, hc] at h

/-- The states that take payload bytes, and the bytes they store (R149, R155). -/
def storesByte (st : PState) (c : Byte) : Prop := (st = .readPath ∨ st = .readData) ∧ c ≠ ownByte st

/-- The state after the bytes of a list have been stored at the write index. -/
def State.stored (s : State) (bs : List Byte) : State :=
  { s with scr := Memory.writes s.scr s.w bs, w := s.w + bs.length }

theorem State.parseByte_of_storesByte (hw : s.w < s.cfg.size) (hc : storesByte s.pstate c) :
    s.parseByte c = .next (s.append c) := by
  obtain ⟨hst, hne⟩ := hc
  rw [State.parseByte_of_lt hw]
  rcases hst with hst | hst <;> rw [hst] at hne <;> simp only [State.byteEffect, hst] <;> exact if_neg hne

/-- Bytes that a state stores and that fit are stored, one after the other (R149, R155). -/
theorem State.parseBytes_stored (hfit : s.w + xs.length ≤ s.cfg.size) (hxs : ∀ c ∈ xs, storesByte s.pstate c) :
    s.parseBytes xs = .next (s.stored xs) := by
  induction xs generalizing s with
  | nil => rfl
  | cons c xs ih =>
    rw [List.length_cons] at hfit
    obtain ⟨hc, hrest⟩ := List.forall_mem_cons.1 hxs
    have happend : (s.append c).w + xs.length ≤ s.cfg.size := by
      change s.w + 1 + xs.length ≤ s.cfg.size
      omega
    calc s.parseBytes (c :: xs)
        = (s.append c).parseBytes xs := State.parseBytes_cons_of_next (State.parseByte_of_storesByte (by omega) hc)
      _ = .next ((s.append c).stored xs) := ih happend hrest
      _ = .next (s.stored (c :: xs)) := by
        simp only [State.stored, State.append, Memory.writes, State.writeScr, List.length_cons]
        rw [Nat.add_assoc, Nat.add_comm 1]

/-! ## The parts of a frame -/

/-- The start of a frame, up to its path (R142, R144, R146, R156). -/
theorem State.parseBytes_frameStart (hst : s.pstate = .waitStart ∨ s.pstate = .error) (hw : s.w < s.cfg.size) :
    s.parseBytes [chLBrace, chP, chColon] = .next { s.beginFrame with pstate := .readPath } := by
  have hbrace : s.parseByte chLBrace = .next s.beginFrame := by
    rw [State.parseByte_of_lt hw]
    rcases hst with hst | hst <;> simp only [State.byteEffect, hst] <;> rfl
  have htag : s.beginFrame.parseByte chP = .next { s.beginFrame with pstate := .waitPColon } :=
    State.parseByte_of_lt s.size_pos
  have hcolon : ({ s.beginFrame with pstate := .waitPColon } : State).parseByte chColon =
      .next { s.beginFrame with pstate := .readPath } :=
    State.parseByte_of_lt s.size_pos
  rw [State.parseBytes_cons_of_next hbrace, State.parseBytes_cons_of_next htag, State.parseBytes_cons_of_next hcolon]
  rfl

/-- From the end of the path to the start of the data (R148, R150, R152). -/
theorem State.parseBytes_pathEnd (hst : s.pstate = .readPath) (hw : s.w + 1 < s.cfg.size) :
    s.parseBytes [chColon, chD, chColon] =
      .next { s.stored [sentinel] with pathLen := s.w - s.pathStart, dataStart := s.w + 1, pstate := .readData } := by
  have hend : s.parseByte chColon = .next { s.stored [sentinel] with pathLen := s.w - s.pathStart, pstate := .waitD } := by
    rw [State.parseByte_of_lt (by omega)]
    simp only [State.byteEffect, hst]
    rfl
  rw [State.parseBytes_cons_of_next hend, State.parseBytes_cons_of_next (State.parseByte_of_lt hw),
    State.parseBytes_cons_of_next (State.parseByte_of_lt hw)]
  rfl

/-- The close brace with room in FQ queues the frame's view (R154). -/
theorem State.parseByte_frameEnd (hst : s.pstate = .readData) (hw : s.w < s.cfg.size) (hp : s.fq.prod < s.cfg.cFq)
    (hroom : (s.fq.prod + 1) % s.cfg.cFq ≠ s.fq.cons) :
    s.parseByte chRBrace =
      .next { (s.stored [sentinel]).resetIdx with
                fq := s.fq.pushed s.cfg.fq ⟨s.pathStart, s.pathLen, s.dataStart, s.w - s.dataStart, s.scrGen⟩,
                pstate := .waitStart } := by
  have hpush : s.endData.pushFq s.endData.frameView =
      .ok ({ s.endData with fq := s.fq.pushed s.cfg.fq s.endData.frameView }, true) := by
    have hfull : s.fq.fullP s.cfg.fq = false := beq_false_of_ne hroom
    have hq : s.endData.fq.push s.endData.cfg.fq s.endData.frameView =
        .ok (some (s.fq.pushed s.cfg.fq s.endData.frameView)) := by
      change s.fq.push s.cfg.fq _ = _
      simp only [Queue.push, hfull, Bool.false_eq_true, if_false]
      exact if_pos hp
    rw [State.pushFq_eq, hq]
  rw [State.parseByte_of_lt hw]
  simp only [State.byteEffect, hst, if_true]
  rw [execPRdRbrace, onRow_of_selected hst hw rfl, hpush]
  rfl

/-! ## The frame -/

/-- The state after a whole frame: its path and its data stand in the scratch buffer, each followed by a sentinel, and its view is queued
(R61, R154). -/
def State.framed (s : State) (path data : List Byte) : State :=
  { s.resetIdx with
    scr := Memory.writes s.scr 0 (path ++ [sentinel] ++ data ++ [sentinel])
    fq := s.fq.pushed s.cfg.fq ⟨0, path.length, path.length + 1, data.length, s.scrGen + 1⟩
    scrGen := s.scrGen + 1
    pstate := .waitStart }

/-- The bytes of a frame that fits are parsed into the frame (R215). -/
theorem State.parseBytes_frame (hst : s.pstate = .waitStart ∨ s.pstate = .error) (hw : s.w < s.cfg.size)
    (hpath : chColon ∉ path) (hdata : chRBrace ∉ data) (hfit : path.length + data.length + 2 ≤ s.cfg.size)
    (hp : s.fq.prod < s.cfg.cFq) (hroom : (s.fq.prod + 1) % s.cfg.cFq ≠ s.fq.cons) :
    s.parseBytes ([chLBrace, chP, chColon] ++ path ++ [chColon, chD, chColon] ++ data ++ [chRBrace]) =
      .next (s.framed path data) := by
  simp only [List.append_assoc]
  rw [State.parseBytes_append_of_next (State.parseBytes_frameStart hst hw),
    State.parseBytes_append_of_next (State.parseBytes_stored ?pathFits fun c hc => ⟨.inl rfl, ne_of_mem_of_not_mem hc hpath⟩),
    State.parseBytes_append_of_next (State.parseBytes_pathEnd rfl ?endFits),
    State.parseBytes_append_of_next (State.parseBytes_stored ?dataFits fun c hc => ⟨.inr rfl, ne_of_mem_of_not_mem hc hdata⟩)]
  refine (State.parseBytes_cons_of_next (State.parseByte_frameEnd rfl ?braceFits ?inRange ?room)).trans ?result
  case pathFits => change 0 + path.length ≤ s.cfg.size; omega
  case endFits => change 0 + path.length + 1 < s.cfg.size; omega
  case dataFits => change 0 + path.length + 1 + data.length ≤ s.cfg.size; omega
  case braceFits => change 0 + path.length + 1 + data.length < s.cfg.size; omega
  case inRange => exact hp
  case room => exact hroom
  case result =>
    simp [State.framed, State.stored, State.beginFrame, State.parseBytes, State.resetIdx, Memory.writes, Memory.writes_append]

end

/-- The bytes of joined items are the items' and commas (R202). -/
theorem mem_joinItems {texts : List (List Byte)} {b : Byte} (h : b ∈ joinItems texts) :
    b = chComma ∨ ∃ t ∈ texts, b ∈ t := by
  induction texts using joinItems.induct with
  | case1 => cases h
  | case2 t => exact .inr ⟨t, List.mem_singleton_self t, h⟩
  | case3 t u ts ih =>
    rw [joinItems, List.append_assoc, List.mem_append, List.mem_append, List.mem_singleton] at h
    rcases h with h | h | h
    · exact .inr ⟨t, List.mem_cons_self, h⟩
    · exact .inl h
    · exact (ih h).imp_right fun ⟨v, hv, hb⟩ => ⟨v, List.mem_cons_of_mem t hv, hb⟩

/-- Settles O33: the state the parser reaches is the frame's, and its two slices read back what was stored. -/
theorem frameRoundTrip : Obligations.FrameRoundTrip := by
  intro s path texts hst hw hpath htexts hfit hp hroom
  have hdata : chRBrace ∉ joinItems texts := fun hmem => by
    obtain hcomma | ⟨t, ht, hb⟩ := mem_joinItems hmem
    · exact absurd hcomma (by decide)
    · exact htexts t ht hb
  refine ⟨s.framed path (joinItems texts), State.parseBytes_frame hst hw hpath hdata hfit hp hroom, rfl, rfl, rfl, rfl, rfl,
    rfl, ?_, ?_⟩
  · refine State.readSlice_of_writes (xs := []) (zs := [sentinel] ++ joinItems texts ++ [sentinel]) (m := s.scr) ?_ ?_
    · simp [State.framed]
    · change 0 + path.length ≤ s.cfg.size
      omega
  · have := State.readSlice_of_writes (s := s.framed path (joinItems texts)) (xs := path ++ [sentinel]) (m := s.scr) rfl ?_
    · simpa using this
    · simp [State.framed]
      omega

end Sys2Proof.Machine
end

section
/-! Under the invariant no step reads what nothing has written, leaves a storage, or runs a row that no byte selects (R64, R95, R272):
each operation that may fault or refuse so, in the order a step reaches it. -/

namespace Sys2Proof.Machine

/-- An answer that is none of the three that rule R272 and rule R95 rule out. -/
def Sound (o : Host.Outcome State Fault Refusal) : Prop :=
  o ≠ .fault .uninitRead ∧ o ≠ .fault .noSuchAddress ∧ o ≠ .refused .rowNotSelected

@[simp] theorem sound_next (t : State) : Sound (.next t) := by simp [Sound]

@[simp] theorem sound_fault_iff (f : Fault) : Sound (.fault f) ↔ f ≠ .uninitRead ∧ f ≠ .noSuchAddress := by simp [Sound]

@[simp] theorem sound_refused_iff (r : Refusal) : Sound (.refused r) ↔ r ≠ .rowNotSelected := by simp [Sound]

section
variable {s : State} {N : Nat}

theorem sound_onIdle {o : Host.Outcome State Fault Refusal} (ho : Sound o) : Sound (onIdle s o) := by
  unfold onIdle
  split
  · simp
  · exact ho

/-! ## The queues -/

/-- A push finds its producer index in range (R128 a). -/
theorem Queue.push_ok {α : Type} {g : Geometry} {q : Queue α} (h : q.inv g) (x : α) : ∃ r, q.push g x = .ok r := by
  obtain ⟨-, he⟩ | ⟨-, -, he⟩ | ⟨-, hp, -⟩ := Queue.push_cases g q x
  · exact ⟨_, he⟩
  · exact ⟨_, he⟩
  · exact absurd h.prod_lt (Nat.not_lt_of_le hp)

/-- A pop finds its consumer index in range, and the slot of an element it sees written (R128 a, d). -/
theorem Queue.pop_ok {α : Type} {g : Geometry} {q : Queue α} (h : q.inv g) : ∃ r, q.pop g = .ok r := by
  obtain ⟨-, he⟩ | ⟨x, -, -, -, he⟩ | ⟨hne, -, hr, -⟩ | ⟨-, hc, -⟩ := Queue.pop_cases g q
  · exact ⟨_, he⟩
  · exact ⟨_, he⟩
  · obtain ⟨-, -, hwritten, -⟩ := id h
    have hslot := hwritten 0 (Queue.count_pos_of_not_emptyC h hne)
    rw [Queue.slot_zero h.cons_lt, hr] at hslot
    cases hslot
  · exact absurd h.cons_lt (Nat.not_lt_of_le hc)

theorem State.pushRx_ok (h : s.rx.inv s.cfg.rx) (b : Byte) : ∃ t ok, s.pushRx b = .ok (t, ok) := by
  obtain ⟨_ | q, hq⟩ := Queue.push_ok h b <;> exact ⟨_, _, by rw [State.pushRx_eq, hq]⟩

theorem State.pushFq_ok (h : s.fq.inv s.cfg.fq) (v : View) : ∃ t ok, s.pushFq v = .ok (t, ok) := by
  obtain ⟨_ | q, hq⟩ := Queue.push_ok h v <;> exact ⟨_, _, by rw [State.pushFq_eq, hq]⟩

theorem State.pushTx_ok (h : s.tx.inv s.cfg.tx) (b : Byte) : ∃ t ok, s.pushTx b = .ok (t, ok) := by
  obtain ⟨_ | q, hq⟩ := Queue.push_ok h b <;> exact ⟨_, _, by rw [State.pushTx_eq, hq]⟩

theorem State.popRx_ok (h : s.rx.inv s.cfg.rx) : ∃ t r, s.popRx = .ok (t, r) := by
  obtain ⟨_ | ⟨b, q⟩, hq⟩ := Queue.pop_ok h <;> exact ⟨_, _, by rw [State.popRx, hq]⟩

theorem State.popFq_ok (h : s.fq.inv s.cfg.fq) : ∃ t r, s.popFq = .ok (t, r) := by
  obtain ⟨_ | ⟨v, q⟩, hq⟩ := Queue.pop_ok h <;> exact ⟨_, _, by rw [State.popFq, hq]⟩

theorem State.popTx_ok (h : s.tx.inv s.cfg.tx) : ∃ t r, s.popTx = .ok (t, r) := by
  obtain ⟨_ | ⟨b, q⟩, hq⟩ := Queue.pop_ok h <;> exact ⟨_, _, by rw [State.popTx, hq]⟩

theorem sound_pushResult {q : QId} {p : Except Fault (State × Bool)} (hp : ∃ t ok, p = .ok (t, ok)) :
    Sound (pushResult q p) := by
  obtain ⟨t, ok, rfl⟩ := hp
  exact sound_next _

theorem sound_popByteResult {q : QId} {p : Except Fault (State × Option Byte)} (hp : ∃ t r, p = .ok (t, r)) :
    Sound (popByteResult q p) := by
  obtain ⟨t, r, rfl⟩ := hp
  exact sound_next _

theorem sound_popViewResult {p : Except Fault (State × Option View)} (hp : ∃ t r, p = .ok (t, r)) :
    Sound (popViewResult p) := by
  obtain ⟨t, r, rfl⟩ := hp
  exact sound_next _

theorem State.Inv.sound_qPush (h : s.Inv) (who : Role) (item : QItem) : Sound (execQPush who item s) := by
  unfold execQPush
  split
  · cases item with
    | rxByte b => exact sound_pushResult (State.pushRx_ok h.rx b)
    | view v => exact sound_pushResult (State.pushFq_ok h.fq v)
    | txByte b => exact sound_pushResult (State.pushTx_ok h.tx b)
  · simp

theorem State.Inv.sound_qPop (h : s.Inv) (who : Role) (q : QId) : Sound (execQPop who q s) := by
  unfold execQPop
  split
  · cases q with
    | rxq => exact sound_popByteResult (State.popRx_ok h.rx)
    | fq => exact sound_popViewResult (State.popFq_ok h.fq)
    | txq => exact sound_popByteResult (State.popTx_ok h.tx)
  · simp

/-! ## The parser -/

/-- The close brace of a frame finds FQ's producer index in range (R154). -/
theorem State.Inv.sound_pRdRbrace (h : s.Inv) (hst : s.pstate = .readData) (hw : s.w < s.cfg.size) :
    Sound (execPRdRbrace s) := by
  obtain ⟨t, ok, hpush⟩ := State.pushFq_ok (s := s.endData) h.fq s.endData.frameView
  rw [execPRdRbrace, onRow_of_selected hst hw rfl, hpush]
  cases ok <;> exact sound_next _

/-- A byte parsed runs the row it selects (R95, R140). -/
theorem State.Inv.sound_parseByte (h : s.Inv) (c : Byte) : Sound (s.parseByte c) := by
  rcases Nat.lt_or_ge s.w s.cfg.size with hw | hw
  · rw [State.parseByte_of_lt hw]
    cases hst : s.pstate with
    | readData =>
      simp only [State.byteEffect, hst]
      split
      · exact h.sound_pRdRbrace hst hw
      · exact sound_next _
    | _ =>
      simp only [State.byteEffect, hst]
      split <;> exact sound_next _
  · rw [State.parseByte_of_guard hw]
    exact sound_next _

/-! ## The classifier -/

/-- A data byte decodes to a well-formed instruction: CLS.OTHER never takes a byte of an earlier row (R96). -/
theorem wf_of_decode_dbyte {b : Byte} {i : Instr} (h : decode (.port (.dbyte b)) = .ok i) : i.wf = true := by
  have hall : ∀ b : Byte, (decodeDByte b).toOption.all Instr.wf = true := by decide
  have hb := hall b
  rw [show decodeDByte b = .ok i from h] at hb
  exact hb

theorem sound_of_decode_dbyte {b : Byte} {i : Instr} (hd : decode (.port (.dbyte b)) = .ok i) : Sound (exec i s) := by
  have hi := isClassRow_of_decode hd
  cases i with
  | clsOther c =>
    have hsel : exec (.clsOther c) s = .next (s.scanClass .other) := if_pos (wf_of_decode_dbyte hd)
    rw [hsel]
    exact sound_next _
  | clsDigit07 d => exact sound_next _
  | clsDigit89 d => exact sound_next _
  | clsMinus => exact sound_next _
  | clsComma => exact sound_next _
  | clsDot => exact sound_next _
  | _ => cases hi

/-! ## The dispatcher -/

/-- A scratch byte inside the buffer that was written is read. -/
theorem State.readScr_ok {a : Nat} (ha : a < s.cfg.size) (hw : (Memory.read s.scr a).isSome = true) :
    ∃ b, s.readScr a = .ok b := by
  obtain ⟨b, hb⟩ := Option.isSome_iff_exists.1 hw
  exact ⟨b, (State.readScr_ok_iff s a b).2 ⟨ha, hb⟩⟩

/-- A slice of a written region inside the buffer is read. -/
theorem State.readSlice_ok (hsize : N ≤ s.cfg.size) (hw : s.scrWritten N) {off n : Nat} (hn : off + n ≤ N) :
    ∃ bs, s.readSlice off n = .ok bs := by
  induction n generalizing off with
  | zero => exact ⟨[], rfl⟩
  | succ n ih =>
    obtain ⟨b, hb⟩ := State.readScr_ok (show off < s.cfg.size by omega) (hw off (by omega))
    obtain ⟨bs, hbs⟩ := ih (show off + 1 + n ≤ N by omega)
    exact ⟨b :: bs, by rw [State.readSlice, hb, hbs]⟩

/-- The slices of items that lie in a written region are read (R186). -/
theorem sliceVals_ok (hsize : N ≤ s.cfg.size) (hw : s.scrWritten N) {base : Nat} {its : List (Nat × List Byte)}
    (hits : ∀ p ∈ its, base + p.1 + p.2.length ≤ N) : ∃ vals, sliceVals s base its = .ok vals := by
  induction its with
  | nil => exact ⟨[], rfl⟩
  | cons p its ih =>
    obtain ⟨hp, hrest⟩ := List.forall_mem_cons.1 hits
    obtain ⟨bytes, hbytes⟩ := State.readSlice_ok hsize hw hp
    obtain ⟨vals, hvals⟩ := ih hrest
    exact ⟨_, by rw [sliceVals, hbytes, hvals]⟩

/-- Every item lies in its payload (R178). -/
theorem mem_itemsFrom_bounds {pos : Nat} {data : List Byte} {p : Nat × List Byte} (h : p ∈ itemsFrom pos data) :
    pos ≤ p.1 ∧ p.1 + p.2.length ≤ pos + data.length := by
  induction data generalizing pos p with
  | nil =>
    obtain rfl := List.mem_singleton.1 h
    simp
  | cons c cs ih =>
    have hrest : ∀ q ∈ itemsFrom (pos + 1) cs, pos + 1 ≤ q.1 ∧ q.1 + q.2.length ≤ pos + 1 + cs.length := fun q hq => ih hq
    rw [List.length_cons]
    unfold itemsFrom at h
    split at h
    · obtain rfl | h := List.mem_cons.1 h
      · simp
      · have := hrest p h
        omega
    · split at h
      · obtain rfl := List.mem_singleton.1 h
        simp
      · next k bs rest hits =>
        rw [hits] at hrest
        obtain ⟨hhead, htail⟩ := List.forall_mem_cons.1 hrest
        obtain rfl | h := List.mem_cons.1 h
        · simp only [List.length_cons] at hhead ⊢
          omega
        · have := htail p h
          omega

/-- A payload's values are computed where its bytes were written (R180 to R186). -/
theorem State.payloadVals_ok_of_written (hsize : N ≤ s.cfg.size) (hw : s.scrWritten N) {v : View} {data : List Byte}
    (hdata : v.dataOff + data.length ≤ N) (ty : PType) : ∃ vals t, s.payloadVals v ty data = .ok (vals, t) := by
  cases ty with
  | none => exact ⟨_, _, rfl⟩
  | int => exact ⟨_, _, rfl⟩
  | float => exact ⟨_, _, rfl⟩
  | string =>
    have hsplit : ({ s with scr := splitCommas v.dataOff data s.scr } : State).scrWritten N := fun a ha => by
      rw [splitCommas_read]
      split
      · rfl
      · exact hw a ha
    have hits : ∀ p ∈ (items data).take s.cfg.maxItems, v.dataOff + p.1 + p.2.length ≤ N := fun p hp => by
      have := mem_itemsFrom_bounds (List.mem_of_mem_take hp)
      omega
    obtain ⟨vals, hvals⟩ := sliceVals_ok (s := { s with scr := splitCommas v.dataOff data s.scr }) hsize hsplit hits
    exact ⟨vals, { s with scr := splitCommas v.dataOff data s.scr }, by simp only [State.payloadVals, hvals]⟩

theorem State.sound_deliver (hsize : N ≤ s.cfg.size) (hw : s.scrWritten N) {v : View} {data : List Byte}
    (hdata : v.dataOff + data.length ≤ N) (r : Nat × Route) : Sound (s.deliver v r data) := by
  rw [State.deliver, State.scanData_eq]
  simp only
  split
  · obtain ⟨vals, t, hvals⟩ := State.payloadVals_ok_of_written
      (s := ({ s with scan := Scan.start } : State).noteTruncation (items data).length)
      (by rwa [State.noteTruncation_cfg]) (by rwa [State.scrWritten, State.noteTruncation_scr]) hdata (classify data)
    rw [hvals]
    exact sound_next _
  · exact sound_next _

/-- A view of the right layout is dispatched over written bytes (R61, R173, R174). -/
theorem State.sound_dispatchView {v : View} (hv : s.viewOk v) : Sound (s.dispatchView v) := by
  obtain ⟨hpo, hdo, hsize, -, hw⟩ := hv
  obtain ⟨path, hpath⟩ := State.readSlice_ok hsize hw (show v.pathOff + v.pathLen ≤ _ by omega)
  obtain ⟨data, hdata⟩ := State.readSlice_ok hsize hw (show v.dataOff + v.dataLen ≤ _ by omega)
  obtain ⟨hlen, -⟩ := (State.readSlice_ok_iff _ _ _ _).1 hdata
  rw [State.dispatchView, hpath]
  simp only
  split
  · exact sound_next _
  · next r hr =>
    split
    · exact sound_next _
    · rw [hdata]
      exact State.sound_deliver hsize hw (by omega) r

theorem State.Inv.sound_dPoll (h : s.Inv) : Sound (execDPoll s) := by
  refine sound_onIdle ?_
  obtain ⟨t, r, hpop⟩ := State.popFq_ok h.fq
  rw [hpop]
  cases r with
  | none => exact sound_next _
  | some v =>
    simp only
    split
    · exact State.sound_dispatchView (h.viewOk_of_popFq hpop)
    · simp

/-! ## The command port and the encoder -/

theorem sound_acceptFrame (n : Nat) (path : List Byte) (texts : List (List Byte)) : Sound (acceptFrame s n path texts) := by
  unfold acceptFrame
  split <;> simp

theorem State.Inv.sound_commandRow (h : s.Inv) {i : Instr} (hi : isCommandRow i = true) : Sound (exec i s) := by
  cases i with
  | pPoll => exact sound_onIdle (sound_next _)
  | dPoll => exact h.sound_dPoll
  | nSet cb => exact sound_onIdle (sound_next _)
  | eNone path => exact sound_onIdle (sound_acceptFrame _ _ _)
  | eInt path vals => exact sound_onIdle (sound_acceptFrame _ _ _)
  | eFloat path vals =>
    refine sound_onIdle ?_
    split
    · exact sound_acceptFrame _ _ _
    · simp
  | eStr path strs => exact sound_onIdle (sound_acceptFrame _ _ _)
  | cmdReserved0 => exact sound_onIdle (sound_next _)
  | cmdReserved8F low => exact sound_onIdle (sound_next _)
  | _ => cases hi

/-- One E.EMIT finds TXQ's producer index in range (R204). -/
theorem State.Inv.sound_emit (h : s.Inv) : Sound s.emit := by
  unfold State.emit
  split
  · exact sound_next _
  · next b rest _ =>
    obtain ⟨t, ok, hpush⟩ := State.pushTx_ok h.tx b
    rw [hpush]
    cases ok with
    | true => cases rest <;> exact sound_next _
    | false => exact sound_next _

theorem sound_execRst : Sound (execRst s) := by
  unfold execRst
  split <;> simp

/-! ## The turns -/

/-- What a port decodes to is sound to run. -/
theorem State.Inv.sound_of_decode_port (h : s.Inv) {p : PortSig} {i : Instr} (hd : decode (.port p) = .ok i) :
    Sound (exec i s) := by
  cases p with
  | dbyte b => exact sound_of_decode_dbyte hd
  | cmd c => exact h.sound_commandRow (isCommandRow_of_decode hd)
  | qProducer key who item => exact eq_of_ite_ok_eq_ok hd ▸ h.sound_qPush who item
  | qConsumer key who q => exact eq_of_ite_ok_eq_ok hd ▸ h.sound_qPop who q
  | rx valid data => exact eq_of_ite_ok_eq_ok hd ▸ sound_pushResult (State.pushRx_ok h.rx data)
  | tx req => exact eq_of_ite_ok_eq_ok hd ▸ sound_popByteResult (State.popTx_ok h.tx)
  | rst r => exact eq_of_ite_ok_eq_ok hd ▸ sound_execRst

theorem State.Inv.sound_step_of_port (h : s.Inv) {p : PortSig} {rest : List Turn} (hs : s.sched = .port p :: rest) :
    Sound (step s) := by
  rw [step_eq, fetch_of_port hs, fetchPort]
  cases hd : decode (.port p) with
  | ok i =>
    cases PortSig.external p with
    | true => exact (h.withSched rest).sound_of_decode_port hd
    | false => simp
  | error e => cases e <;> simp

/-- An iteration of P.POLL pops a written slot and runs the row of its byte, or ends (R160). -/
theorem State.Inv.sound_step_of_poll (h : s.Inv) {rest : List Turn} (hs : s.sched = .task :: rest)
    (ha : s.pollActive = true) : Sound (step s) := by
  obtain ⟨_ | ⟨c, q⟩, hpop⟩ := Queue.pop_ok h.rx
  · rw [step_of_poll_empty hs ha hpop]
    exact sound_next _
  · obtain ⟨he, -, rfl⟩ := Queue.pop_some hpop
    rw [step_of_poll_pop hs ha hpop]
    exact ((h.withSched rest).withRx (Queue.inv_popped h.rx he)).sound_parseByte c

theorem State.Inv.sound_step (h : s.Inv) : Sound (step s) := by
  match hs : s.sched with
  | [] => rw [step_eq, fetch_of_nil hs]; exact sound_next _
  | .port p :: rest => exact h.sound_step_of_port hs
  | .task :: rest =>
    cases ha : s.pollActive with
    | true => exact h.sound_step_of_poll hs ha
    | false => rw [step_eq, fetch_of_emit hs ha]; exact (h.withSched rest).sound_emit
  | .syncP q :: rest => rw [step_eq, fetch_of_syncP hs]; exact sound_next _
  | .syncC q :: rest => rw [step_eq, fetch_of_syncC hs]; exact sound_next _

end

/-- Settles O37, by the kind of the step's turn. -/
theorem noUnwrittenRead : Obligations.NoUnwrittenRead := fun _ h => h.sound_step

end Sys2Proof.Machine
end

section
/-! A turn of the transport or of a synchroniser: the few fields it may change (R76, R262, R264). -/

namespace Sys2Proof.Machine

section
variable {s t u : State}

/-- All that a turn outside the task context may change: RXQ but its consumer index, TXQ but its producer index and its storage, and the
records (R76). -/
def State.OutsideMove (s t : State) : Prop :=
  ∃ (rx tx : Queue Byte) (events : List Event) (outs : List Out),
    rx.cons = s.rx.cons ∧ tx.prod = s.tx.prod ∧ tx.store = s.tx.store ∧
    t = { s with rx := rx, tx := tx, events := events, outs := outs }

theorem State.OutsideMove.refl (s : State) : s.OutsideMove s := ⟨s.rx, s.tx, s.events, s.outs, rfl, rfl, rfl, rfl⟩

theorem State.OutsideMove.emitOut (h : s.OutsideMove t) (o : Out) : s.OutsideMove (t.emitOut o) := by
  obtain ⟨rx, tx, events, outs, hcons, hprod, hstore, rfl⟩ := h
  exact ⟨rx, tx, events, outs ++ [o], hcons, hprod, hstore, rfl⟩

/-! ## The queues' outer sides -/

theorem State.outsideMove_pushRx {b : Byte} {ok : Bool} (h : s.pushRx b = .ok (t, ok)) : s.OutsideMove t := by
  obtain ⟨-, -, rfl⟩ | ⟨-, -, -, rfl⟩ := State.pushRx_cases h
  · exact ⟨s.rx, s.tx, _, s.outs, rfl, rfl, rfl, rfl⟩
  · exact ⟨s.rx.pushed s.cfg.rx b, s.tx, s.events, s.outs, rfl, rfl, rfl, rfl⟩

theorem State.outsideMove_popTx {r : Option Byte} (h : s.popTx = .ok (t, r)) : s.OutsideMove t := by
  obtain ⟨-, -, rfl⟩ | ⟨b, -, -, -, -, rfl⟩ := State.popTx_cases h
  · exact ⟨s.rx, s.tx, _, s.outs, rfl, rfl, rfl, rfl⟩
  · exact ⟨s.rx, s.tx.popped s.cfg.tx, s.events, s.outs, rfl, rfl, rfl, rfl⟩

/-- RX.PUSH, or Q.PUSH on RXQ (R131). -/
theorem outsideMove_rxPush {b : Byte} (h : pushResult .rxq (s.pushRx b) = .next t) : s.OutsideMove t := by
  obtain ⟨u, ok, hu, rfl⟩ := pushResult_next h
  exact (State.outsideMove_pushRx hu).emitOut _

/-- TX.POP, or Q.POP on TXQ (R132). -/
theorem outsideMove_txPop (h : popByteResult .txq s.popTx = .next t) : s.OutsideMove t := by
  obtain ⟨u, r, hu, rfl⟩ := popByteResult_next h
  exact (State.outsideMove_popTx hu).emitOut _

/-- FQ is Immediate: its synchronisers do nothing (R74). -/
theorem State.outsideMove_syncP (s : State) (q : QId) : s.OutsideMove (s.syncP q) := by
  cases q with
  | rxq => exact ⟨_, s.tx, s.events, s.outs, by rw [Queue.syncP_eq], rfl, rfl, rfl⟩
  | fq => exact .refl s
  | txq => exact ⟨s.rx, _, s.events, s.outs, rfl, by rw [Queue.syncP_eq], by rw [Queue.syncP_eq], rfl⟩

theorem State.outsideMove_syncC (s : State) (q : QId) : s.OutsideMove (s.syncC q) := by
  cases q with
  | rxq => exact ⟨_, s.tx, s.events, s.outs, by rw [Queue.syncC_eq], rfl, rfl, rfl⟩
  | fq => exact .refl s
  | txq => exact ⟨s.rx, _, s.events, s.outs, rfl, by rw [Queue.syncC_eq], by rw [Queue.syncC_eq], rfl⟩

/-! ## The transport's turns -/

/-- The generic producer port, from outside, drives RXQ alone (R133). -/
theorem outsideMove_qPush {key : BitVec 2} {who : Role} {item : QItem}
    (hp : PortSig.external (.qProducer key who item) = true) (h : execQPush who item s = .next t) : s.OutsideMove t := by
  unfold execQPush at h
  split at h
  · next hwho =>
    subst hwho
    cases item with
    | rxByte b => exact outsideMove_rxPush h
    | view v => cases hp
    | txByte b => cases hp
  · cases h

/-- The generic consumer port, from outside, drives TXQ alone (R133). -/
theorem outsideMove_qPop {key : BitVec 2} {who : Role} {q : QId} (hp : PortSig.external (.qConsumer key who q) = true)
    (h : execQPop who q s = .next t) : s.OutsideMove t := by
  unfold execQPop at h
  split at h
  · next hwho =>
    subst hwho
    cases q with
    | rxq => cases hp
    | fq => cases hp
    | txq => exact outsideMove_txPop h
  · cases h

theorem outsideMove_transaction {p : PortSig} {i : Instr} (hturn : (Turn.port p).outsideTask = true)
    (hp : PortSig.external p = true) (hd : decode (.port p) = .ok i) (he : exec i s = .next t) : s.OutsideMove t := by
  cases p with
  | qProducer key who item =>
    cases eq_of_ite_ok_eq_ok hd
    exact outsideMove_qPush hp he
  | qConsumer key who q =>
    cases eq_of_ite_ok_eq_ok hd
    exact outsideMove_qPop hp he
  | rx valid data =>
    cases eq_of_ite_ok_eq_ok hd
    exact outsideMove_rxPush he
  | tx req =>
    cases eq_of_ite_ok_eq_ok hd
    exact outsideMove_txPop he
  | dbyte b => cases hturn
  | cmd c => cases hturn
  | rst r => cases hturn

/-- A turn outside the task context that goes on makes such a move, after the turn is taken (R262, R264). -/
theorem outsideMove_of_step {turn : Turn} {rest : List Turn} (hs : s.sched = turn :: rest)
    (hturn : turn.outsideTask = true) (h : step s = .next t) : ({ s with sched := rest } : State).OutsideMove t := by
  cases stepTaken_of_step h with
  | noTurn hs' => cases hs ▸ hs'
  | idlePort hs' =>
    cases hs ▸ hs'
    exact .refl _
  | transaction hs' hp hd he =>
    cases hs ▸ hs'
    exact outsideMove_transaction hturn hp hd he
  | syncP hs' =>
    cases hs ▸ hs'
    exact State.outsideMove_syncP _ _
  | syncC hs' =>
    cases hs ▸ hs'
    exact State.outsideMove_syncC _ _
  | pollByte hs' | pollEnd hs' | emitByte hs' =>
    cases hs ▸ hs'
    cases hturn

end

/-- Settles O12: what the turn may change is none of what is listed. -/
theorem contextSeparation : Obligations.ContextSeparation := by
  intro s t turn rest hs hturn h
  obtain ⟨rx, tx, events, outs, hcons, hprod, hstore, rfl⟩ := outsideMove_of_step hs hturn h
  exact ⟨rfl, rfl, hcons, hprod, hstore, rfl, rfl, rfl, rfl, rfl, rfl, rfl, rfl, rfl, rfl, rfl, rfl, rfl, rfl⟩

end Sys2Proof.Machine
end

section
/-! With current copies a Synchronised queue answers as an Immediate one, and one synchroniser step makes the copies current again
(R74). -/

namespace Sys2Proof.Machine

section
variable {α : Type} {cap : Nat} {q : Queue α} {x : α}

/-- With the producer side's copy current, a push does not depend on the visibility (R121, R122). -/
theorem Queue.push_synchronised_eq_immediate (hcs : q.consSeen = q.cons) :
    q.push ⟨cap, .synchronised⟩ x = q.push ⟨cap, .immediate⟩ x := by
  have hfull : q.fullP ⟨cap, .synchronised⟩ = q.fullP ⟨cap, .immediate⟩ := by
    simp only [Queue.fullP, Queue.consView, hcs, advance]
  simp only [Queue.push, hfull, advance]

/-- With the consumer side's copy current, a pop does not depend on the visibility (R123, R124). -/
theorem Queue.pop_synchronised_eq_immediate (hps : q.prodSeen = q.prod) :
    q.pop ⟨cap, .synchronised⟩ = q.pop ⟨cap, .immediate⟩ := by
  have hempty : q.emptyC ⟨cap, .synchronised⟩ = q.emptyC ⟨cap, .immediate⟩ := by
    simp only [Queue.emptyC, Queue.prodView, hps]
  simp only [Queue.pop, hempty, advance]

/-- An index of a queue of more than one slot moves when it is advanced (R62). -/
theorem ne_advance {g : Geometry} {i : Nat} (hg : 1 < g.cap) (hi : i < g.cap) : i ≠ advance g i := by
  rw [advance_eq_ite hi]
  split <;> omega

/-- The step of Q.SYNCP after a push brings the copy up to date (R126). -/
theorem Queue.syncP_pushed (hcap : 1 < cap) (hp : q.prod < cap) (hps : q.prodSeen = q.prod) (hcs : q.consSeen = q.cons) :
    (q.pushed ⟨cap, .synchronised⟩ x).syncP ⟨cap, .synchronised⟩ =
      { q.pushed ⟨cap, .immediate⟩ x with prodSeen := (q.pushed ⟨cap, .immediate⟩ x).prod, consSeen := q.cons } := by
  have hne : q.prod ≠ (q.prod + 1) % cap := ne_advance (g := ⟨cap, .synchronised⟩) hcap hp
  simp only [Queue.syncP, Queue.pushed, hps, hcs, hne, if_false, advance]

/-- The step of Q.SYNCC after a pop brings the copy up to date (R127). -/
theorem Queue.syncC_popped (hcap : 1 < cap) (hc : q.cons < cap) (hps : q.prodSeen = q.prod) (hcs : q.consSeen = q.cons) :
    (q.popped ⟨cap, .synchronised⟩).syncC ⟨cap, .synchronised⟩ =
      { q.popped ⟨cap, .immediate⟩ with prodSeen := q.prod, consSeen := (q.popped ⟨cap, .immediate⟩).cons } := by
  have hne : q.cons ≠ (q.cons + 1) % cap := ne_advance (g := ⟨cap, .synchronised⟩) hcap hc
  simp only [Queue.syncC, Queue.popped, hps, hcs, hne, if_false, advance]

end

/-- Settles O19: both geometries give one answer, and the synchroniser follows. -/
theorem immediateIsSpecialCase : Obligations.ImmediateIsSpecialCase := by
  intro α cap q hcap hp hc hps hcs gs gi
  refine ⟨fun x => by rw [Queue.push_synchronised_eq_immediate hcs], by rw [Queue.pop_synchronised_eq_immediate hps],
    fun x q' h => ?_, fun x q' h => ?_⟩
  · rw [Queue.push_synchronised_eq_immediate hcs] at h
    obtain ⟨-, rfl⟩ := Queue.push_some h
    exact ⟨_, h, Queue.syncP_pushed hcap hp hps hcs⟩
  · rw [Queue.pop_synchronised_eq_immediate hps] at h
    obtain ⟨-, -, rfl⟩ := Queue.pop_some h
    exact ⟨_, h, Queue.syncC_popped hcap hc hps hcs⟩

end Sys2Proof.Machine
end

section
/-! The decoder and the encoder (R95, R96, R101 to R108): what every signal decodes to, port by port, and that the encoder of a well-formed
instruction and the decoder agree. -/

namespace Sys2Proof.Machine

/-! ## The parser's port (R95) -/

/-- Every state code is the code of a state (R27). -/
theorem code_ofCode (k : BitVec 3) : (PState.ofCode k).code = k := by
  revert k
  decide

/-- Every key is the key of a state and a byte (R95). -/
theorem exists_parserKey_eq (key : BitVec 11) : ∃ (st : PState) (c : Byte), parserKey st.code c = key :=
  ⟨.ofCode (keyState key), keyByte key, (parserKey_eq_iff _ _ key).2 ⟨code_ofCode _, rfl⟩⟩

theorem wf_ite_of_ne {c own : Byte} {i j : Instr} (hi : i.wf = true) (hj : c ≠ own → j.wf = true) :
    (if c = own then i else j).wf = true := by
  split
  · exact hi
  · next hc => exact hj hc

/-- The row of a state and a byte is well formed: the OTHER row takes no byte that has a row of its own (R95). -/
theorem wf_parserRow (st : PState) (c : Byte) : (parserRow st c).wf = true := by
  cases st <;> exact wf_ite_of_ne rfl bne_iff_ne.2

/-- A parser key decodes to a well-formed instruction, with the guard on or off (R95). -/
theorem wf_of_decode_pbyte {full : Bool} {key : BitVec 11} {i : Instr} (h : decode (.pbyte full key) = .ok i) :
    i.wf = true := by
  obtain ⟨st, c, rfl⟩ := exists_parserKey_eq key
  cases full with
  | true =>
    rw [decode_parserKey_true] at h
    cases h
    rfl
  | false =>
    rw [decode_parserKey_false] at h
    cases h
    exact wf_parserRow st c

/-- The encoder's key of a state and a byte decodes to the row that they select (R95). -/
theorem decode_encodeKey {st : PState} {c : Byte} {i : Instr} (h : parserRow st c = i) :
    decode (encodeKey st c) = .ok i :=
  h ▸ decode_parserKey_false st c

/-- With a byte that is not the state's own, that is the OTHER row (R95). -/
theorem decode_encodeKey_other {st : PState} {c : Byte} {i j : Instr}
    (hsel : parserRow st c = if c = ownByte st then j else i) (h : (c != ownByte st) = true) : decode (encodeKey st c) = .ok i :=
  decode_encodeKey (hsel.trans (if_neg (bne_iff_ne.1 h)))

/-! ## The classifier's port (R96) -/

/-- A byte of no earlier class decodes to CLS.OTHER (R96). -/
theorem decode_dbyte_of_isOtherByte {b : Byte} (h : isOtherByte b = true) : decode (.port (.dbyte b)) = .ok (.clsOther b) := by
  have hall : ∀ b : Byte, isOtherByte b = true → decode (.port (.dbyte b)) = .ok (.clsOther b) := by decide
  exact hall b h

/-! ## The command port (R101, R104, R105) -/

/-- A length fits the port when LEN_BITS can carry it (R104). -/
theorem fitsPort_iff (n : Nat) : fitsPort n = true ↔ n < 2 ^ 16 := decide_eq_true_iff

/-- A command whose count and operands the port can carry decodes to what the row of its code builds (R105). -/
theorem decode_cmd_of_build {c : CmdSig} {r : CmdRow} {i : Instr} (hsel : selectCmd c.op = some r) (hi : r.build c = i)
    (hcount : c.countOk = true) (hwf : i.wf = true) : decode (.port (.cmd c)) = .ok i := by
  simp only [decode, decodePort, decodeCmd, hsel, hi, hcount, checkFit, hwf, if_true]

/-- A command decodes to a well-formed instruction: its operands fit the port (R104). -/
theorem wf_of_decode_cmd {c : CmdSig} {i : Instr} (h : decode (.port (.cmd c)) = .ok i) : i.wf = true := by
  obtain ⟨r, hsel, rfl⟩ := build_of_decode_cmd h
  simp only [decode, decodePort, decodeCmd, hsel, checkFit] at h
  cases hwf : (r.build c).wf with
  | true => rfl
  | false => cases hc : c.countOk <;> simp [hwf, hc] at h

/-- A command that carries no values has no count to check (R105). -/
theorem countOk_of_noValues {c : CmdSig} (h : c.op ≠ 0x5 ∧ c.op ≠ 0x6 ∧ c.op ≠ 0x7) : c.countOk = true := by
  obtain ⟨hint, hfloat, hstr⟩ := h
  rw [CmdSig.countOk, if_neg (not_or.2 ⟨hint, hfloat⟩), if_neg hstr]

/-! One equation for each code, whatever stands in the operands that it does not use. -/

theorem decode_cmd_pPoll {c : CmdSig} (hop : c.op = 0x1) : decode (.port (.cmd c)) = .ok .pPoll :=
  decode_cmd_of_build (by rw [hop]; rfl) rfl (countOk_of_noValues (by rw [hop]; decide)) rfl

theorem decode_cmd_dPoll {c : CmdSig} (hop : c.op = 0x2) : decode (.port (.cmd c)) = .ok .dPoll :=
  decode_cmd_of_build (by rw [hop]; rfl) rfl (countOk_of_noValues (by rw [hop]; decide)) rfl

theorem decode_cmd_nSet {c : CmdSig} (hop : c.op = 0x3) : decode (.port (.cmd c)) = .ok (.nSet c.cb) :=
  decode_cmd_of_build (by rw [hop]; rfl) rfl (countOk_of_noValues (by rw [hop]; decide)) rfl

theorem decode_cmd_eNone {c : CmdSig} (hop : c.op = 0x4) (hwf : (Instr.eNone c.path).wf = true) :
    decode (.port (.cmd c)) = .ok (.eNone c.path) :=
  decode_cmd_of_build (by rw [hop]; rfl) rfl (countOk_of_noValues (by rw [hop]; decide)) hwf

theorem decode_cmd_eInt {c : CmdSig} (hop : c.op = 0x5) (hcount : c.count = c.words.length)
    (hwf : (Instr.eInt c.path c.words).wf = true) : decode (.port (.cmd c)) = .ok (.eInt c.path c.words) :=
  decode_cmd_of_build (by rw [hop]; rfl) rfl (by simp [CmdSig.countOk, hop, hcount]) hwf

theorem decode_cmd_eFloat {c : CmdSig} (hop : c.op = 0x6) (hcount : c.count = c.words.length)
    (hwf : (Instr.eFloat c.path c.words).wf = true) : decode (.port (.cmd c)) = .ok (.eFloat c.path c.words) :=
  decode_cmd_of_build (by rw [hop]; rfl) rfl (by simp [CmdSig.countOk, hop, hcount]) hwf

theorem decode_cmd_eStr {c : CmdSig} (hop : c.op = 0x7) (hcount : c.count = c.strs.length)
    (hwf : (Instr.eStr c.path c.strs).wf = true) : decode (.port (.cmd c)) = .ok (.eStr c.path c.strs) :=
  decode_cmd_of_build (by rw [hop]; rfl) rfl (by simp [CmdSig.countOk, hop, hcount]) hwf

theorem decode_cmd_reserved0 {c : CmdSig} (hop : c.op = 0x0) : decode (.port (.cmd c)) = .ok .cmdReserved0 :=
  decode_cmd_of_build (by rw [hop]; rfl) rfl (countOk_of_noValues (by rw [hop]; decide)) rfl

/-- The codes from 0x8 up select the second reserved row (R101). -/
theorem selectCmd_reserved8F (low : BitVec 3) :
    selectCmd (1#1 ++ low) = some ⟨"CMD.RESERVED.8_F", 0x8, 0x8, fun c => .cmdReserved8F (c.op.extractLsb' 0 3)⟩ := by
  have hrow : ∀ low : BitVec 3, ((1#1 ++ low) &&& 0x8#4 == 0x8#4) = true := by decide
  have hearlier : ∀ low : BitVec 3, ∀ j : Fin 8, (!((1#1 ++ low) &&& cmdTable[j].mask == cmdTable[j].value)) = true := by decide
  exact List.find?_eq_some_iff_getElem.2 ⟨hrow low, 8, by decide, rfl, fun j hj => hearlier low ⟨j, hj⟩⟩

theorem decode_cmd_reserved8F {c : CmdSig} {low : BitVec 3} (hop : c.op = 1#1 ++ low) :
    decode (.port (.cmd c)) = .ok (.cmdReserved8F low) := by
  have hcodes : ∀ low : BitVec 3, 1#1 ++ low ≠ 0x5#4 ∧ 1#1 ++ low ≠ 0x6#4 ∧ 1#1 ++ low ≠ 0x7#4 := by decide
  refine decode_cmd_of_build (hop ▸ selectCmd_reserved8F low) ?_ (countOk_of_noValues (hop ▸ hcodes low)) rfl
  change Instr.cmdReserved8F (c.op.extractLsb' 0 3) = _
  rw [hop, BitVec.extractLsb'_append_eq_right]

/-! ## The obligations about the decoder alone -/

/-- Settles O1: by the rows of each port's table. -/
theorem decodeInvertsEncode : Obligations.DecodeInvertsEncode := by
  intro i hwf
  cases i with
  | pOvf st c =>
    obtain ⟨k, rfl⟩ : ∃ k, PState.code k = st := ⟨_, code_ofCode st⟩
    exact decode_parserKey_true k c
  | pWsLbrace | pWpP | pWpcColon | pRpColon | pWdD | pWdcColon | pRdRbrace | pErLbrace => exact decode_encodeKey rfl
  | pWsOther c | pWpOther c | pWpcOther c | pRpOther c | pWdOther c | pWdcOther c | pRdOther c | pErOther c =>
    exact decode_encodeKey_other rfl hwf
  | clsDigit07 d =>
    revert d
    decide
  | clsDigit89 d =>
    revert d
    decide
  | clsMinus | clsComma | clsDot => rfl
  | clsOther b => exact decode_dbyte_of_isOtherByte hwf
  | pPoll => exact decode_cmd_pPoll rfl
  | dPoll => exact decode_cmd_dPoll rfl
  | nSet cb => exact decode_cmd_nSet rfl
  | eNone path => exact decode_cmd_eNone rfl hwf
  | eInt path vals => exact decode_cmd_eInt rfl rfl hwf
  | eFloat path vals => exact decode_cmd_eFloat rfl rfl hwf
  | eStr path strs => exact decode_cmd_eStr rfl rfl hwf
  | cmdReserved0 => exact decode_cmd_reserved0 rfl
  | cmdReserved8F low => exact decode_cmd_reserved8F rfl
  | qPush who item | qPop who q | rxPush b | txPop | rst => rfl

/-- Settles O2: port by port; the ports of one request line build instructions with no operand to check. -/
theorem decodeYieldsWellFormed : Obligations.DecodeYieldsWellFormed := by
  intro sig i h
  cases sig with
  | pbyte full key => exact wf_of_decode_pbyte h
  | port p =>
    cases p with
    | dbyte b => exact wf_of_decode_dbyte h
    | cmd c => exact wf_of_decode_cmd h
    | qProducer key who item => cases eq_of_ite_ok_eq_ok h; rfl
    | qConsumer key who q => cases eq_of_ite_ok_eq_ok h; rfl
    | rx valid data => cases eq_of_ite_ok_eq_ok h; rfl
    | tx req => cases eq_of_ite_ok_eq_ok h; rfl
    | rst r => cases eq_of_ite_ok_eq_ok h; rfl

/-- Settles O3: the guard takes every key, and without it the state and the byte select the row. -/
theorem parserKeySelectsOneRow : Obligations.ParserKeySelectsOneRow := fun st c =>
  ⟨decode_parserKey_true st c, (decode_parserKey_false st c).trans (by cases st <;> rfl)⟩

/-- Settles O5: each word is one evaluation of the decoder. -/
theorem writtenOutWordsDecode : Obligations.WrittenOutWordsDecode :=
  ⟨rfl, rfl, rfl, rfl, rfl, rfl, rfl, rfl, rfl, rfl, rfl, rfl⟩

/-- Settles O6: the row of each code, and the check on its operands. -/
theorem commandCodesDecode : Obligations.CommandCodesDecode := by
  intro c
  refine ⟨decode_cmd_pPoll rfl, decode_cmd_dPoll rfl, decode_cmd_nSet rfl,
    decode_cmd_reserved0 rfl, fun low => decode_cmd_reserved8F rfl, fun hpath => ⟨?_, fun hn hcount => ?_, fun hn hcount hstrs => ?_⟩⟩
  · exact decode_cmd_eNone (c := { c with op := 0x4 }) rfl ((fitsPort_iff _).2 hpath)
  · have hwf : (fitsPort c.path.length && fitsPort c.words.length) = true := by
      simp only [Bool.and_eq_true, fitsPort_iff]
      exact ⟨hpath, hcount ▸ hn⟩
    exact ⟨decode_cmd_eInt (c := { c with op := 0x5 }) rfl hcount hwf,
      decode_cmd_eFloat (c := { c with op := 0x6 }) rfl hcount hwf⟩
  · have hwf : (Instr.eStr c.path c.strs).wf = true := by
      simp only [Instr.wf, Bool.and_eq_true, List.all_eq_true, fitsPort_iff]
      exact ⟨⟨hpath, hcount ▸ hn⟩, hstrs⟩
    exact decode_cmd_eStr (c := { c with op := 0x7 }) rfl hcount hwf

end Sys2Proof.Machine
end

section
/-! The classifier: the class of every byte, the scan of a payload, and the class rows run over it (R96, R175). -/

namespace Sys2Proof.Machine

/-! ## The class of a byte (R96) -/

theorem byteClass_eq (b : Byte) :
    byteClass b =
      if 0x30 ≤ b.toNat ∧ b.toNat ≤ 0x39 then .digit else if b = 0x2D then .minus else if b = 0x2C then .comma
      else if b = 0x2E then .dot else .other := by
  revert b
  decide

/-- The check of CLS.OTHER's byte is the class of the byte (R96). -/
theorem isOtherByte_iff (b : Byte) : isOtherByte b = true ↔ byteClass b = .other := by
  revert b
  decide

/-! ## The scan of a payload (R175) -/

/-- A byte class raises the test that looks for it, and no other. -/
theorem Scan.add_eq (sc : Scan) (k : ByteClass) : sc.add k = ⟨sc.other || decide (k = .other), sc.dot || decide (k = .dot)⟩ := by
  cases k <;> simp [Scan.add]

/-- A scan raises each test when some byte of its class has passed. -/
theorem Scan.foldl_add (sc : Scan) (data : List Byte) :
    data.foldl (fun sc b => sc.add (byteClass b)) sc =
      ⟨sc.other || data.any (byteClass · = .other), sc.dot || data.any (byteClass · = .dot)⟩ := by
  induction data generalizing sc with
  | nil => simp
  | cons b bs ih => rw [List.foldl_cons, ih, Scan.add_eq, List.any_cons, List.any_cons, Bool.or_assoc, Bool.or_assoc]

theorem scanBytes_eq (data : List Byte) :
    scanBytes data = ⟨data.any (byteClass · = .other), data.any (byteClass · = .dot)⟩ := by
  rw [scanBytes, Scan.foldl_add]
  simp [Scan.start]

/-- Classify by the classes that occur (R175). -/
theorem classify_eq (data : List Byte) :
    classify data = if ∃ b ∈ data, byteClass b = .other then .string
      else if ∃ b ∈ data, byteClass b = .dot then .float else .int := by
  simp only [classify, scanBytes_eq, Scan.type, List.any_eq_true, decide_eq_true_eq]

theorem classify_ne_none (data : List Byte) : classify data ≠ .none := by
  rw [classify_eq]
  split_ifs <;> simp

/-- Settles O4: the table of classes, and the two tests of the scan. -/
theorem payloadClassification : Obligations.PayloadClassification :=
  ⟨byteClass_eq, fun data => ⟨classify_ne_none data, classify_eq data⟩⟩

/-! ## The class rows (R96) -/

theorem execClsOther_of_other {b : Byte} (h : byteClass b = .other) (s : State) :
    exec (.clsOther b) s = .next (s.scanClass .other) :=
  if_pos ((isOtherByte_iff b).2 h)

theorem execClsOther_of_ne_other {b : Byte} (h : byteClass b ≠ .other) (s : State) :
    exec (.clsOther b) s = .refused .rowNotSelected :=
  if_neg (mt (isOtherByte_iff b).1 h)

/-- Every byte selects a row of the classifier's table, which names the byte's class (R96). -/
theorem exists_selectDByte_eq (b : Byte) : ∃ r ∈ dbyteTable, selectDByte b = some r ∧ byteClass b = r.cls := by
  have hall : ∀ b, (selectDByte b).isSome = true := by decide
  obtain ⟨r, hr⟩ := Option.isSome_iff_exists.1 (hall b)
  exact ⟨r, List.mem_of_find?_eq_some hr, hr, by simp only [byteClass, hr]⟩

/-- The row that a data byte selects advances the scan by the byte's class (R96). -/
theorem exists_decode_dbyte (b : Byte) :
    ∃ i, decode (.port (.dbyte b)) = .ok i ∧ ∀ s, exec i s = .next (s.scanClass (byteClass b)) := by
  obtain ⟨r, hmem, hsel, hcls⟩ := exists_selectDByte_eq b
  refine ⟨r.build b, by simp only [decode, decodePort, decodeDByte, hsel], fun s => ?_⟩
  rw [hcls]
  simp only [dbyteTable, List.mem_cons, List.not_mem_nil, or_false] at hmem
  rcases hmem with rfl | rfl | rfl | rfl | rfl | rfl
  exacts [rfl, rfl, rfl, rfl, rfl, execClsOther_of_other hcls s]

/-- The class rows run over a payload make its scan (R96, R175). -/
theorem State.classBytes_eq (s : State) (data : List Byte) :
    s.classBytes data = .next (data.foldl (fun t b => t.scanClass (byteClass b)) s) := by
  induction data generalizing s with
  | nil => rfl
  | cons b bs ih =>
    obtain ⟨i, hd, he⟩ := exists_decode_dbyte b
    simp only [State.classBytes, hd, he, ih, List.foldl_cons]

/-- Settles O59: the rows one by one, and their run over a payload. -/
theorem classRowsClassify : Obligations.ClassRowsClassify := by
  intro s
  refine ⟨fun d => rfl, fun d => rfl, rfl, rfl, rfl, fun b hb => execClsOther_of_other hb s,
    fun b hb => execClsOther_of_ne_other hb s, fun data => ⟨_, State.classBytes_eq _ data, ?_, ?_⟩⟩
  · rw [State.scanClass_foldl]
    rfl
  · rw [State.scanClass_foldl]

end Sys2Proof.Machine
end

section
/-! Where the rows of the parser run: a row runs in the states in which R95 selects it for some byte, and is refused in all others
(R95, R140; log entry 9). -/

namespace Sys2Proof.Machine

section
variable {s : State}

/-- Under the guard every byte selects P.OVF (R95, R141). -/
theorem State.decode_byteSignal_of_guard (hg : s.guard = true) (c : Byte) :
    decode (s.byteSignal c) = .ok (.pOvf s.pstate.code c) := by
  rw [State.byteSignal, hg, decode_parserKey_true]

/-- Where the guard does not fire, a byte selects its row of the parser's state (R95). -/
theorem State.decode_byteSignal_of_lt (hw : s.w < s.cfg.size) (c : Byte) :
    decode (s.byteSignal c) = .ok (parserRow s.pstate c) := by
  have hg : s.guard = false := decide_eq_false (Nat.not_le_of_lt hw)
  rw [State.byteSignal, hg, decode_parserKey_false]

/-- Where no byte selects a row, the row is refused: if its condition held, the byte of the row would select it. -/
theorem onRow_of_not_selected {st : PState} {c : Byte} {ok : Bool} {i : Instr} {o : Host.Outcome State Fault Refusal}
    (hnone : ∀ c, decode (s.byteSignal c) ≠ .ok i) (hrow : ok = true → parserRow st c = i) :
    onRow (s.inRow st ok) o = .refused .rowNotSelected := by
  refine if_neg fun hsel => ?_
  obtain ⟨rfl, hw, hok⟩ := (State.inRow_iff _ _ _).1 hsel
  exact hnone c ((State.decode_byteSignal_of_lt hw c).trans (congrArg _ (hrow hok)))

/-- The OTHER row of a state, whose byte is any but the state's own. -/
theorem onRow_other_of_not_selected {st : PState} {c : Byte} {i j : Instr} {o : Host.Outcome State Fault Refusal}
    (hnone : ∀ c, decode (s.byteSignal c) ≠ .ok i) (hrow : parserRow st c = if c = ownByte st then j else i) :
    onRow (s.inRow st (c != ownByte st)) o = .refused .rowNotSelected :=
  onRow_of_not_selected hnone fun hc => hrow.trans (if_neg (bne_iff_ne.1 hc))

/-- P.OVF is refused where no byte selects it (R141). -/
theorem execPOvf_of_not_selected {st : BitVec 3} {c : Byte} (hnone : ∀ c', decode (s.byteSignal c') ≠ .ok (.pOvf st c)) :
    execPOvf st c s = .refused .rowNotSelected := by
  refine if_neg fun hsel => ?_
  obtain ⟨hg, hst⟩ := Bool.and_eq_true_iff.1 hsel
  obtain rfl := eq_of_beq hst
  exact hnone c (State.decode_byteSignal_of_guard hg c)

theorem exec_parserRow_of_not_selected {i : Instr} (hi : isParserRow i = true)
    (hnone : ∀ c, decode (s.byteSignal c) ≠ .ok i) :
    exec i s = .refused .rowNotSelected := by
  cases i with
  | pOvf st c => exact execPOvf_of_not_selected hnone
  | pWsLbrace | pErLbrace => exact onRow_of_not_selected (c := chLBrace) hnone fun _ => rfl
  | pWpP => exact onRow_of_not_selected (c := chP) hnone fun _ => rfl
  | pWpcColon | pRpColon | pWdcColon => exact onRow_of_not_selected (c := chColon) hnone fun _ => rfl
  | pWdD => exact onRow_of_not_selected (c := chD) hnone fun _ => rfl
  | pRdRbrace => exact onRow_of_not_selected (c := chRBrace) hnone fun _ => rfl
  | pWsOther c | pWpOther c | pWpcOther c | pRpOther c | pWdOther c | pWdcOther c | pRdOther c | pErOther c =>
    exact onRow_other_of_not_selected hnone rfl
  | _ => cases hi

/-- The close brace of a frame is never refused (R154). -/
theorem execPRdRbrace_ne_rowNotSelected (hst : s.pstate = .readData) (hw : s.w < s.cfg.size) :
    execPRdRbrace s ≠ .refused .rowNotSelected := by
  rw [execPRdRbrace, onRow_of_selected hst hw rfl]
  split <;> simp

/-- A byte parsed is never refused: the row that it selects runs (R95, R140). -/
theorem State.parseByte_ne_rowNotSelected (c : Byte) : s.parseByte c ≠ .refused .rowNotSelected := by
  rcases Nat.lt_or_ge s.w s.cfg.size with hw | hw
  · rw [State.parseByte_of_lt hw]
    cases hst : s.pstate with
    | readData =>
      simp only [State.byteEffect, hst]
      split
      · exact execPRdRbrace_ne_rowNotSelected hst hw
      · simp
    | _ =>
      simp only [State.byteEffect, hst]
      split <;> simp
  · rw [State.parseByte_of_guard hw]
    simp

/-- The row that a byte selects is what parsing the byte runs. -/
theorem exec_ne_rowNotSelected_of_decode {c : Byte} {i : Instr} (hd : decode (s.byteSignal c) = .ok i) :
    exec i s ≠ .refused .rowNotSelected := by
  have hparse : s.parseByte c = exec i s := by simp only [State.parseByte, hd]
  exact hparse ▸ s.parseByte_ne_rowNotSelected c

end

/-- Settles O29: the condition of each row is its selection. -/
theorem rowsRunWhereSelected : Obligations.RowsRunWhereSelected := fun _ _ hi =>
  ⟨exec_parserRow_of_not_selected hi, fun _ => exec_ne_rowNotSelected_of_decode⟩

end Sys2Proof.Machine
end

section
/-! Turns that bring nothing, and the command port: busy, idle, and the reserved codes (R101, R104, R263; log entries 2, 12, 13, 16, 24). -/

namespace Sys2Proof.Machine

section
variable {s : State} {p : PortSig} {rest : List Turn}

/-! ## Turns that bring nothing -/

theorem step_of_nil (hs : s.sched = []) : step s = .next s := by
  rw [step_eq, fetch_of_nil hs]

/-- Idle signals use up the turn (R102, R103, R107, R108; log entry 16). -/
theorem step_of_noRequest (hs : s.sched = .port p :: rest) (hd : decode (.port p) = .error .noRequest) :
    step s = .next { s with sched := rest } := by
  rw [step_eq, fetch_of_port hs]
  simp only [fetchPort, hd]

/-- Signals that the port cannot carry are refused (R104; log entry 24). -/
theorem step_of_badSignals {e : DecodeError} (hs : s.sched = .port p :: rest) (hd : decode (.port p) = .error e)
    (he : e ≠ .noRequest) : step s = .refused .badSignals := by
  rw [step_eq, fetch_of_port hs]
  cases e with
  | noRequest => exact absurd rfl he
  | noRow | countMismatch | tooLong => simp only [fetchPort, hd]

/-- A task turn with no operation running is used up (R46, R47; log entry 16). -/
theorem step_of_task_of_idle (hs : s.sched = .task :: rest) (hidle : s.idle) : step s = .next { s with sched := rest } := by
  obtain ⟨ha, hrem⟩ := hidle
  rw [step_eq, fetch_of_emit hs ha]
  simp only [State.emit, hrem]

/-! ## The command port -/

/-- A command presented while an operation runs is refused (R104, U19). -/
theorem onIdle_of_running (h : s.pollActive = true ∨ s.encRem ≠ []) (o : Host.Outcome State Fault Refusal) :
    onIdle s o = .refused .commandBusy :=
  if_pos (by simpa [State.busy] using h)

/-- A command presented while no operation runs has its effect (R104). -/
theorem onIdle_of_idle (h : s.idle) (o : Host.Outcome State Fault Refusal) : onIdle s o = o :=
  if_neg (Bool.eq_false_iff.1 (s.busy_eq_false.2 h))

/-- A command with a reserved code completes and changes nothing, whatever operands stand beside it (R101, R105). -/
theorem step_of_reserved {c : CmdSig} (hidle : s.idle) (hs : s.sched = .port (.cmd c) :: rest)
    (hop : c.op = 0x0 ∨ 0x8 ≤ c.op) : step s = .next (({ s with sched := rest } : State).reserved c.op) := by
  have hhigh : ∀ op : BitVec 4, 0x8 ≤ op → op = 1#1 ++ op.extractLsb' 0 3 := by decide
  rcases hop with hop | hop
  · rw [step_of_external_port hs rfl (decode_cmd_reserved0 hop), hop]
    exact onIdle_of_idle (s := { s with sched := rest }) hidle _
  · obtain ⟨low, hlow⟩ : ∃ low : BitVec 3, c.op = 1#1 ++ low := ⟨_, hhigh _ hop⟩
    rw [step_of_external_port hs rfl (decode_cmd_reserved8F hlow), hlow]
    exact onIdle_of_idle (s := { s with sched := rest }) hidle _

end

/-- Settles O9: one rule for each kind of turn that brings no instruction. -/
theorem idleTurns : Obligations.IdleTurns := fun _ _ _ =>
  ⟨step_of_nil, step_of_noRequest, fun hs hd => step_of_badSignals hs hd nofun, fun hs hd => step_of_badSignals hs hd nofun,
   fun hs ha hrem => step_of_task_of_idle hs ⟨ha, hrem⟩⟩

/-- Settles O40: every row of the command port tests the port first. -/
theorem busyCommandsRefused : Obligations.BusyCommandsRefused := fun _ h =>
  ⟨onIdle_of_running h _, onIdle_of_running h _, fun _ => onIdle_of_running h _, fun _ => onIdle_of_running h _,
   fun _ _ => onIdle_of_running h _, fun _ _ => onIdle_of_running h _, fun _ _ => onIdle_of_running h _,
   onIdle_of_running h _, fun _ => onIdle_of_running h _⟩

/-- Settles O41: the two rows, and the turn that presents any reserved code. -/
theorem reservedCodesChangeNothing : Obligations.ReservedCodesChangeNothing := fun _ hidle =>
  ⟨onIdle_of_idle hidle _, fun _ => onIdle_of_idle hidle _, fun _ _ hs hop => step_of_reserved hidle hs hop⟩

end Sys2Proof.Machine
end

section
/-! Runs of operations on one queue: what each operation of a run does under the queue's invariant, that the queue holds what was pushed
and not yet popped (R128, R129), and how many pushes an empty queue takes (R130). -/

namespace Sys2Proof.Machine

section
variable {α : Type} {g : Geometry} {q : Queue α} {r : QRun α} {x y : α} {xs : List α}

/-! ## The invariant and the answers -/

theorem Queue.inv_of_push (h : q.inv g) {q' : Queue α} (hpush : q.push g x = .ok (some q')) : q'.inv g := by
  obtain ⟨hf, rfl⟩ := Queue.push_some hpush
  exact Queue.inv_pushed h hf

theorem Queue.inv_of_pop (h : q.inv g) {q' : Queue α} (hpop : q.pop g = .ok (some (x, q'))) : q'.inv g := by
  obtain ⟨he, -, rfl⟩ := Queue.pop_some hpop
  exact Queue.inv_popped h he

theorem Queue.push_ne_error (h : q.inv g) (x : α) (f : Fault) : q.push g x ≠ .error f := by
  obtain ⟨a, ha⟩ := Queue.push_ok h x
  rw [ha]
  nofun

theorem Queue.pop_ne_error (h : q.inv g) (f : Fault) : q.pop g ≠ .error f := by
  obtain ⟨a, ha⟩ := Queue.pop_ok h
  rw [ha]
  nofun

theorem Queue.fullP_iff : q.fullP g = true ↔ (q.prod + 1) % g.cap = q.consView g := beq_iff_eq

/-- A push that sees no room fails (R122). -/
theorem Queue.push_of_fullP (hf : q.fullP g = true) : q.push g x = .ok none := if_pos hf

/-- A push that sees room, at an index in range, succeeds (R122). -/
theorem Queue.push_of_not_fullP (hf : q.fullP g = false) (hp : q.prod < g.cap) :
    q.push g x = .ok (some (q.pushed g x)) := by
  simp [Queue.push, hf, hp, Queue.pushed, advance]

/-- A pop that sees an element takes the head of the live ones and leaves the rest (R23, R124). -/
theorem Queue.pop_eq_of_not_emptyC (h : q.inv g) (he : q.emptyC g = false) :
    ∃ x, q.pop g = .ok (some (x, q.popped g)) ∧ q.live g = x :: (q.popped g).live g := by
  obtain ⟨he', -⟩ | ⟨x, -, -, hx, hpop⟩ | ⟨-, -, -, hpop⟩ | ⟨-, -, hpop⟩ := Queue.pop_cases g q
  · rw [he] at he'
    cases he'
  · exact ⟨x, hpop, Queue.live_popped h he hx⟩
  · exact absurd hpop (Queue.pop_ne_error h _)
  · exact absurd hpop (Queue.pop_ne_error h _)

/-! ## The operations of a run -/

@[simp] theorem QRun.ops_nil (g : Geometry) (r : QRun α) : r.ops g [] = r := rfl

@[simp] theorem QRun.ops_cons (g : Geometry) (r : QRun α) (o : QOp α) (l : List (QOp α)) :
    r.ops g (o :: l) = (r.op g o).ops g l := rfl

@[simp] theorem QRun.op_syncP (g : Geometry) (r : QRun α) : r.op g .syncP = { r with queue := r.queue.syncP g } := rfl

@[simp] theorem QRun.op_syncC (g : Geometry) (r : QRun α) : r.op g .syncC = { r with queue := r.queue.syncC g } := rfl

/-- A push that sees no room changes nothing (R122). -/
theorem QRun.op_push_of_fullP (hf : r.queue.fullP g = true) : r.op g (.push x) = r := by
  simp only [QRun.op, Queue.push_of_fullP hf]

/-- A push that sees room succeeds (R122). -/
theorem QRun.op_push_of_not_fullP (h : r.queue.inv g) (hf : r.queue.fullP g = false) :
    r.op g (.push x) = { r with queue := r.queue.pushed g x, pushed := r.pushed ++ [x] } := by
  simp only [QRun.op, Queue.push_of_not_fullP hf h.prod_lt]

/-- A pop that sees no element changes nothing (R124). -/
theorem QRun.op_pop_of_emptyC (he : r.queue.emptyC g = true) : r.op g .pop = r := by
  simp only [QRun.op, Queue.pop_of_empty (eq_of_beq he)]

/-- A pop that sees an element takes the oldest live one (R124). -/
theorem QRun.op_pop_of_not_emptyC (h : r.queue.inv g) (he : r.queue.emptyC g = false) :
    ∃ x, r.op g .pop = { r with queue := r.queue.popped g, popped := r.popped ++ [x] } ∧
      r.queue.live g = x :: (r.queue.popped g).live g := by
  obtain ⟨x, hpop, hlive⟩ := Queue.pop_eq_of_not_emptyC h he
  exact ⟨x, by simp only [QRun.op, hpop], hlive⟩

/-! ## First in, first out -/

/-- The invariant of a run (R128, R129): the queue's own, and the live elements are those pushed and not yet popped. -/
def QRun.Ordered (g : Geometry) (r : QRun α) : Prop :=
  r.queue.inv g ∧ r.pushed = r.popped ++ r.queue.live g

theorem QRun.ordered_start (α : Type) {g : Geometry} (hg : 0 < g.cap) : (QRun.start α).Ordered g := by
  refine ⟨Queue.inv_empty α hg, ?_⟩
  simp [QRun.start, Queue.live_empty]

theorem QRun.Ordered.op (h : r.Ordered g) (o : QOp α) : (r.op g o).Ordered g := by
  obtain ⟨hinv, hlive⟩ := id h
  cases o with
  | push x =>
    cases hf : r.queue.fullP g with
    | true => rwa [QRun.op_push_of_fullP hf]
    | false =>
      rw [QRun.op_push_of_not_fullP hinv hf]
      exact ⟨Queue.inv_pushed hinv hf, by simp [Queue.live_pushed hinv hf, hlive]⟩
  | pop =>
    cases he : r.queue.emptyC g with
    | true => rwa [QRun.op_pop_of_emptyC he]
    | false =>
      obtain ⟨x, hop, hhead⟩ := QRun.op_pop_of_not_emptyC hinv he
      rw [hop]
      exact ⟨Queue.inv_popped hinv he, by simp [hlive, hhead]⟩
  | syncP => exact ⟨Queue.inv_syncP hinv, hlive.trans (by rw [QRun.op_syncP, Queue.live_syncP])⟩
  | syncC => exact ⟨Queue.inv_syncC hinv, hlive.trans (by rw [QRun.op_syncC, Queue.live_syncC])⟩

theorem QRun.Ordered.ops (h : r.Ordered g) (l : List (QOp α)) : (r.ops g l).Ordered g := by
  induction l generalizing r with
  | nil => exact h
  | cons o l ih => exact ih (h.op o)

theorem QRun.Ordered.popped_prefix (h : r.Ordered g) : r.popped <+: r.pushed := by
  obtain ⟨-, hlive⟩ := h
  exact ⟨_, hlive.symm⟩

/-! ## The capacity -/

/-- A producer side that sees the true consumer index sees the queue full exactly when it is (R23, R121). -/
theorem Queue.fullP_iff_of_consView (h : q.inv g) (hcv : q.consView g = q.cons) :
    q.fullP g = true ↔ q.count g = g.cap - 1 := by
  refine ⟨fun hf => ?_, fun hcount => ?_⟩
  · have hle := Queue.count_le h
    have hwrap : advance g q.prod = q.cons := (Queue.fullP_iff.1 hf).trans hcv
    by_contra hne
    have hstep : dist g q.cons (advance g q.prod) = q.count g + 1 :=
      dist_advance_right h.cons_lt h.prod_lt (show q.count g < g.cap - 1 by omega)
    rw [hwrap, dist_self h.cons_lt] at hstep
    cases hstep
  · exact Queue.fullP_iff.2 ((advance_eq_of_dist_eq h.cons_lt h.prod_lt hcount).trans hcv.symm)

theorem Queue.not_fullP_of_count_lt (h : q.inv g) (hcv : q.consView g = q.cons) (hcount : q.count g < g.cap - 1) :
    q.fullP g = false :=
  Bool.eq_false_iff.2 fun hf => Nat.ne_of_lt hcount ((Queue.fullP_iff_of_consView h hcv).1 hf)

theorem Queue.consView_syncP (g : Geometry) (q : Queue α) : (q.syncP g).consView g = q.consView g := by
  rw [Queue.syncP_eq]
  rfl

/-- A producer side that sees the true consumer index has nothing to catch up with (R127). -/
theorem Queue.syncC_of_consView (hcv : q.consView g = q.cons) : q.syncC g = q := by
  unfold Queue.syncC
  split
  · next hg =>
    simp only [Queue.consView, hg] at hcv
    exact if_pos hcv
  · rfl

/-- With no pop, and the true consumer index in the producer side's sight, the pushes that succeed are those there is room for, in order,
whatever the synchronisers do (R130). -/
theorem QRun.pushed_ops_of_no_pop {l : List (QOp α)} (hl : QOp.pop ∉ l) (h : r.queue.inv g)
    (hcv : r.queue.consView g = r.queue.cons) :
    (r.ops g l).pushed = r.pushed ++ (pushesOf l).take (g.cap - 1 - r.queue.count g) := by
  induction l generalizing r with
  | nil => simp [pushesOf]
  | cons o l ih =>
    obtain ⟨ho, hrest⟩ := not_or.1 (mt List.mem_cons.2 hl)
    rw [QRun.ops_cons]
    cases o with
    | push x =>
      cases hf : r.queue.fullP g with
      | true =>
        have hcount := (Queue.fullP_iff_of_consView h hcv).1 hf
        rw [QRun.op_push_of_fullP hf, ih hrest h hcv]
        simp [hcount]
      | false =>
        have hcount := Queue.count_lt_of_not_fullP h hf
        have hroom : g.cap - 1 - r.queue.count g = g.cap - 1 - (r.queue.count g + 1) + 1 := by omega
        rw [QRun.op_push_of_not_fullP h hf,
          ih (r := { r with queue := r.queue.pushed g x, pushed := r.pushed ++ [x] }) hrest (Queue.inv_pushed h hf) hcv,
          Queue.count_pushed h hf, hroom]
        simp [pushesOf]
    | pop => exact absurd rfl ho
    | syncP =>
      have hcount : (r.queue.syncP g).count g = r.queue.count g := by rw [Queue.syncP_eq]; rfl
      have hcons : (r.queue.syncP g).cons = r.queue.cons := by rw [Queue.syncP_eq]
      rw [QRun.op_syncP, ih hrest (Queue.inv_syncP h) (by rw [Queue.consView_syncP, hcv, hcons]), hcount]
      rfl
    | syncC =>
      rw [QRun.op_syncC, Queue.syncC_of_consView hcv]
      exact ih hrest h hcv

/-- The copies of a Synchronised queue stand at the consumer index, as those of an empty queue that have caught up (R130). -/
def Queue.CaughtUp (g : Geometry) (q : Queue α) : Prop :=
  g.sync = .synchronised → q.prodSeen = q.cons ∧ q.consSeen = q.cons

theorem Queue.CaughtUp.consView_eq (hq : q.CaughtUp g) : q.consView g = q.cons := by
  unfold Queue.consView
  split
  · next hg =>
    obtain ⟨-, hcs⟩ := hq hg
    exact hcs
  · rfl

/-- Where the pushed items are not yet exposed, a Synchronised queue looks empty to its consumer (R123, R130). -/
theorem Queue.CaughtUp.emptyC (hq : q.CaughtUp g) (hg : g.sync = .synchronised) : q.emptyC g = true := by
  obtain ⟨hps, -⟩ := hq hg
  simp [Queue.emptyC, Queue.prodView, hg, hps]

/-- Pushes for which there is room all succeed, and move no copy (R122, R130). -/
theorem QRun.ops_pushes (h : q.inv g) (hq : q.CaughtUp g) (ps os : List α) (hroom : q.count g + xs.length ≤ g.cap - 1) :
    ∃ q' : Queue α, QRun.ops g ⟨q, ps, os⟩ (xs.map .push) = ⟨q', ps ++ xs, os⟩ ∧
      q'.inv g ∧ q'.CaughtUp g ∧ q'.live g = q.live g ++ xs := by
  induction xs generalizing q ps with
  | nil => exact ⟨q, by simp, h, hq, by simp⟩
  | cons x xs ih =>
    rw [List.length_cons] at hroom
    have hf := Queue.not_fullP_of_count_lt h hq.consView_eq (by omega)
    have hcount := Queue.count_pushed (x := x) h hf
    obtain ⟨q', hops, hinv, hq', hlive⟩ :=
      ih (Queue.inv_pushed (x := x) h hf) hq (ps ++ [x]) (by omega)
    refine ⟨q', ?_, hinv, hq', ?_⟩
    · rw [List.map_cons, QRun.ops_cons, QRun.op_push_of_not_fullP h hf, hops, List.append_cons ps x xs]
    · rw [hlive, Queue.live_pushed h hf, List.append_cons (q.live g) x xs]

/-! ## After one pop -/

theorem Queue.syncP_of_immediate (hg : g.sync = .immediate) (q : Queue α) : q.syncP g = q := by
  simp only [Queue.syncP, hg]

theorem Queue.syncC_of_immediate (hg : g.sync = .immediate) (q : Queue α) : q.syncC g = q := by
  simp only [Queue.syncC, hg]

/-- Once Q.SYNCP has been taken the consumer sees an element, when there is one (R126). -/
theorem Queue.not_emptyC_syncP (h : q.inv g) (hpos : 0 < q.count g) : (q.syncP g).emptyC g = false := by
  have hne : q.prod ≠ q.cons := fun e => by simp [Queue.count, e, dist_self h.cons_lt] at hpos
  obtain ⟨⟨hp, hc, hps, -⟩, ho, -⟩ := h
  cases hg : g.sync with
  | immediate => simp [Queue.syncP_of_immediate hg, Queue.emptyC, Queue.prodView, hg, hne]
  | synchronised =>
    by_cases hseen : q.prodSeen = q.prod
    · simp [Queue.syncP, Queue.emptyC, Queue.prodView, hg, hseen, hne]
    · rw [Queue.ordered_iff_of_synchronised hg] at ho
      have hbehind := dist_pos hps hp hseen
      have hahead := dist_advance_right hc hps (by omega)
      have hmoved : advance g q.prodSeen ≠ q.cons := fun e => by
        rw [e, dist_self hc] at hahead
        cases hahead
      simp [Queue.syncP, Queue.emptyC, Queue.prodView, hg, hseen, hmoved]

/-- The step of Q.SYNCC after a pop shows the producer side the freed slot (R127). -/
theorem Queue.consView_syncC_popped (hcv : q.consView g = q.cons) :
    ((q.popped g).syncC g).consView g = ((q.popped g).syncC g).cons := by
  cases hg : g.sync with
  | immediate => simp only [Queue.consView, hg]
  | synchronised =>
    have hcs : q.consSeen = q.cons := by simpa only [Queue.consView, hg] using hcv
    simp only [Queue.syncC, Queue.consView, Queue.popped, hg, hcs]
    split
    · next heq => exact heq
    · rfl

/-- A full queue of which one element is popped, with both synchronisers taken, takes one more push (R130). -/
theorem QRun.ops_pop_push (h : q.inv g) (hcv : q.consView g = q.cons) (hlive : q.live g = x :: xs) (ps os : List α) :
    ∃ q' : Queue α, QRun.ops g ⟨q, ps, os⟩ [.syncP, .pop, .syncC, .push y] = ⟨q', ps ++ [y], os ++ [x]⟩ := by
  have hpos : 0 < q.count g := by simp [← Queue.length_live h, hlive]
  have hinv := Queue.inv_syncP h
  have he := Queue.not_emptyC_syncP h hpos
  have hcv' : (q.syncP g).consView g = (q.syncP g).cons := by rw [Queue.consView_syncP, hcv, Queue.syncP_eq]
  have hinv' := Queue.inv_syncC (Queue.inv_popped hinv he)
  obtain ⟨z, hpop, hz⟩ := QRun.op_pop_of_not_emptyC (r := ⟨q.syncP g, ps, os⟩) hinv he
  obtain ⟨rfl, hxs⟩ : x = z ∧ xs = ((q.syncP g).popped g).live g :=
    List.cons.inj (hlive.symm.trans ((Queue.live_syncP g q).symm.trans hz))
  have hcount : (((q.syncP g).popped g).syncC g).count g < g.cap - 1 := by
    have hle := Queue.count_le h
    rw [← Queue.length_live h, hlive, List.length_cons] at hle
    rw [← Queue.length_live hinv', Queue.live_syncC, ← hxs]
    omega
  have hf := Queue.not_fullP_of_count_lt hinv' (Queue.consView_syncC_popped hcv') hcount
  refine ⟨(((q.syncP g).popped g).syncC g).pushed g y, ?_⟩
  rw [QRun.ops_cons, QRun.op_syncP, QRun.ops_cons, hpop, QRun.ops_cons, QRun.op_syncC, QRun.ops_cons,
    QRun.op_push_of_not_fullP hinv' hf, QRun.ops_nil]

/-- On an Immediate queue the synchronisers are not needed (R74, R130). -/
theorem QRun.ops_pop_push_of_immediate (hg : g.sync = .immediate) (r : QRun α) :
    r.ops g [.pop, .push y] = r.ops g [.syncP, .pop, .syncC, .push y] := by
  simp only [QRun.ops_cons, QRun.op_syncP, QRun.op_syncC, Queue.syncP_of_immediate hg, Queue.syncC_of_immediate hg]

/-- On a Synchronised queue a pop does not change what the producer side sees (R121). -/
theorem QRun.fullP_op_pop_of_synchronised (hg : g.sync = .synchronised) (h : r.queue.inv g) :
    (r.op g .pop).queue.fullP g = r.queue.fullP g := by
  cases he : r.queue.emptyC g with
  | true => rw [QRun.op_pop_of_emptyC he]
  | false =>
    obtain ⟨x, hop, -⟩ := QRun.op_pop_of_not_emptyC h he
    simp only [hop, Queue.fullP, Queue.consView, hg, Queue.popped]

theorem QRun.pushed_op_pop (h : r.queue.inv g) : (r.op g .pop).pushed = r.pushed := by
  cases he : r.queue.emptyC g with
  | true => rw [QRun.op_pop_of_emptyC he]
  | false =>
    obtain ⟨x, hop, -⟩ := QRun.op_pop_of_not_emptyC h he
    rw [hop]

/-- On a Synchronised queue seen full, a pop without Q.SYNCC makes no room for a push (R121, R130). -/
theorem QRun.pushed_ops_pop_push_of_synchronised (hg : g.sync = .synchronised) (h : r.queue.inv g)
    (hf : r.queue.fullP g = true) : (r.ops g [.syncP, .pop, .push y]).pushed = r.pushed := by
  have hinv : (r.op g .syncP).queue.inv g := Queue.inv_syncP h
  have hfull : (r.op g .syncP).queue.fullP g = true := by
    rw [QRun.op_syncP, Queue.fullP, Queue.consView_syncP, Queue.syncP_eq]
    exact hf
  rw [QRun.ops_cons, QRun.ops_cons, QRun.ops_cons, QRun.ops_nil,
    QRun.op_push_of_fullP ((QRun.fullP_op_pop_of_synchronised hg hinv).trans hfull), QRun.pushed_op_pop hinv]
  rfl

end

/-- Settles O15: what is live stands between what was popped and what was pushed, throughout. -/
theorem fifoOrder : Obligations.FifoOrder := fun α _ l hg =>
  ((QRun.ordered_start α (Nat.zero_lt_of_lt hg)).ops l).popped_prefix

/-- Settles O14, operation by operation. -/
theorem queueInvariantKept : Obligations.QueueInvariantKept := fun α _ hg =>
  ⟨Queue.inv_empty α (Nat.zero_lt_of_lt hg), fun _ h =>
    ⟨fun _ _ hpush => Queue.inv_of_push h hpush, fun _ _ hpop => Queue.inv_of_pop h hpop, Queue.inv_syncP h,
     Queue.inv_syncC h, Queue.push_ne_error h, Queue.pop_ne_error h⟩⟩

/-- Settles O17: the runs without a pop, and the runs that go on from the full queue. -/
theorem capacityBound : Obligations.CapacityBound := by
  intro α g q _ h hpc hcopies
  have hq : q.CaughtUp g := hcopies
  have hempty : q.count g = 0 := by rw [Queue.count, hpc, dist_self h.cons_lt]
  have hlive : q.live g = [] := List.eq_nil_of_length_eq_zero ((Queue.length_live h).trans hempty)
  refine ⟨fun l hl => ?_, fun x xs y hlen => ?_⟩
  · rw [QRun.pushed_ops_of_no_pop hl h hq.consView_eq, hempty, List.nil_append, Nat.sub_zero]
  · obtain ⟨q', hfull, hinv, hq', hlive'⟩ := QRun.ops_pushes (xs := x :: xs) h hq [] [] (by omega)
    rw [hlive, List.nil_append] at hlive'
    have hf : q'.fullP g = true := by
      rw [Queue.fullP_iff_of_consView hinv hq'.consView_eq, ← Queue.length_live hinv, hlive', hlen]
    obtain ⟨q'', hnext⟩ := QRun.ops_pop_push (y := y) hinv hq'.consView_eq hlive' (x :: xs) []
    intro full
    have hfull : full = ⟨q', x :: xs, []⟩ := hfull
    rw [hfull]
    refine ⟨?_, by rw [hnext], by rw [hnext]; rfl, fun hg => ?_, fun hg => ⟨?_, ?_⟩⟩
    · rw [QRun.ops_cons, QRun.op_push_of_fullP hf, QRun.ops_nil]
    · rw [QRun.ops_pop_push_of_immediate hg, hnext]
    · exact QRun.pushed_ops_pop_push_of_synchronised hg hinv hf
    · rw [QRun.ops_cons, QRun.op_pop_of_emptyC (hq'.emptyC hg), QRun.ops_nil]

end Sys2Proof.Machine
end

section
/-! The queues' ports and the synchronisers' turns: what each does to the whole state (R122, R124, R126, R127, R131, R132), and who may
drive which side (R133, R281). -/

namespace Sys2Proof.Machine

section
variable {s : State} {rest : List Turn} {b : Byte} {v : View}

/-! ## The operations on a queue, as one equation each -/

section
variable {α : Type} {g : Geometry} {q : Queue α} {x : α}

/-- Q.SYNCP, by its condition (R126). -/
theorem Queue.syncP_eq_ite (g : Geometry) (q : Queue α) :
    q.syncP g = if g.sync = .synchronised ∧ q.prodSeen ≠ q.prod then
      { q with prodSeen := (q.prodSeen + 1) % g.cap } else q := by
  cases hg : g.sync with
  | immediate => simp [Queue.syncP_of_immediate hg]
  | synchronised => simp [Queue.syncP, hg, advance]

/-- Q.SYNCC, by its condition (R127). -/
theorem Queue.syncC_eq_ite (g : Geometry) (q : Queue α) :
    q.syncC g = if g.sync = .synchronised ∧ q.consSeen ≠ q.cons then
      { q with consSeen := (q.consSeen + 1) % g.cap } else q := by
  cases hg : g.sync with
  | immediate => simp [Queue.syncC_of_immediate hg]
  | synchronised => simp [Queue.syncC, hg, advance]

/-- A push writes the producer slot and no other (R122). -/
theorem Queue.read_pushed (g : Geometry) (q : Queue α) (x : α) (a : Nat) :
    Memory.read (q.pushed g x).store a = if a = q.prod then some x else Memory.read q.store a :=
  Memory.read_write q.store q.prod x a

end

/-! ## The synchronisers' turns -/

theorem step_of_syncP {q : QId} (hs : s.sched = .syncP q :: rest) :
    step s = .next (({ s with sched := rest } : State).syncP q) := by
  rw [step_eq, fetch_of_syncP hs]

theorem step_of_syncC {q : QId} (hs : s.sched = .syncC q :: rest) :
    step s = .next (({ s with sched := rest } : State).syncC q) := by
  rw [step_eq, fetch_of_syncC hs]

/-! ## Pushes -/

/-- A push on RXQ shows its result (R122, R131). -/
theorem pushResult_pushRx (hp : s.rx.prod < s.cfg.cRx) :
    pushResult .rxq (s.pushRx b) = .next (if (s.rx.prod + 1) % s.cfg.cRx = s.rx.consView s.cfg.rx
      then { s with events := s.events ++ [.pushFull .rxq], outs := s.outs ++ [.pushOk .rxq false] }
      else { s with rx := s.rx.pushed s.cfg.rx b, outs := s.outs ++ [.pushOk .rxq true] }) := by
  split
  · next hf =>
    rw [State.pushRx_eq, Queue.push_of_fullP (Queue.fullP_iff.2 hf)]
    rfl
  · next hf =>
    rw [State.pushRx_eq, Queue.push_of_not_fullP (Bool.eq_false_iff.2 (mt Queue.fullP_iff.1 hf)) hp]
    rfl

/-- A push on FQ shows its result (R122). -/
theorem pushResult_pushFq (hp : s.fq.prod < s.cfg.cFq) :
    pushResult .fq (s.pushFq v) = .next (if (s.fq.prod + 1) % s.cfg.cFq = s.fq.cons
      then { s with events := s.events ++ [.pushFull .fq], outs := s.outs ++ [.pushOk .fq false] }
      else { s with fq := s.fq.pushed s.cfg.fq v, outs := s.outs ++ [.pushOk .fq true] }) := by
  split
  · next hf =>
    rw [State.pushFq_eq, Queue.push_of_fullP (Queue.fullP_iff.2 hf)]
    rfl
  · next hf =>
    rw [State.pushFq_eq, Queue.push_of_not_fullP (Bool.eq_false_iff.2 (mt Queue.fullP_iff.1 hf)) hp]
    rfl

/-- A push on TXQ shows its result (R122). -/
theorem pushResult_pushTx (hp : s.tx.prod < s.cfg.cTx) :
    pushResult .txq (s.pushTx b) = .next (if (s.tx.prod + 1) % s.cfg.cTx = s.tx.consView s.cfg.tx
      then { s with events := s.events ++ [.pushFull .txq], outs := s.outs ++ [.pushOk .txq false] }
      else { s with tx := s.tx.pushed s.cfg.tx b, outs := s.outs ++ [.pushOk .txq true] }) := by
  split
  · next hf =>
    rw [State.pushTx_eq, Queue.push_of_fullP (Queue.fullP_iff.2 hf)]
    rfl
  · next hf =>
    rw [State.pushTx_eq, Queue.push_of_not_fullP (Bool.eq_false_iff.2 (mt Queue.fullP_iff.1 hf)) hp]
    rfl

/-! ## Pops -/

theorem popByteResult_popRx_of_empty (h : s.rx.prodView s.cfg.rx = s.rx.cons) : popByteResult .rxq s.popRx = .next
    { s with events := s.events ++ [.popEmpty .rxq], outs := s.outs ++ [.popByte .rxq none] } := by
  rw [State.popRx, Queue.pop_of_empty h]
  rfl

theorem popByteResult_popRx_of_read (he : s.rx.prodView s.cfg.rx ≠ s.rx.cons) (hc : s.rx.cons < s.cfg.rx.cap)
    (hb : Memory.read s.rx.store s.rx.cons = some b) : popByteResult .rxq s.popRx = .next
    { s with rx := s.rx.popped s.cfg.rx, outs := s.outs ++ [.popByte .rxq (some b)] } := by
  rw [State.popRx, Queue.pop_of_read he hc hb]
  rfl

theorem popViewResult_popFq_of_empty (h : s.fq.prod = s.fq.cons) : popViewResult s.popFq = .next
    { s with events := s.events ++ [.popEmpty .fq], outs := s.outs ++ [.popView none] } := by
  rw [State.popFq, Queue.pop_of_empty (g := s.cfg.fq) h]
  rfl

theorem popViewResult_popFq_of_read (he : s.fq.prod ≠ s.fq.cons) (hc : s.fq.cons < s.cfg.fq.cap)
    (hv : Memory.read s.fq.store s.fq.cons = some v) : popViewResult s.popFq = .next
    { s with fq := s.fq.popped s.cfg.fq, outs := s.outs ++ [.popView (some v)] } := by
  rw [State.popFq, Queue.pop_of_read (g := s.cfg.fq) he hc hv]
  rfl

theorem popByteResult_popTx_of_empty (h : s.tx.prodView s.cfg.tx = s.tx.cons) : popByteResult .txq s.popTx = .next
    { s with events := s.events ++ [.popEmpty .txq], outs := s.outs ++ [.popByte .txq none] } := by
  rw [State.popTx, Queue.pop_of_empty h]
  rfl

theorem popByteResult_popTx_of_read (he : s.tx.prodView s.cfg.tx ≠ s.tx.cons) (hc : s.tx.cons < s.cfg.tx.cap)
    (hb : Memory.read s.tx.store s.tx.cons = some b) : popByteResult .txq s.popTx = .next
    { s with tx := s.tx.popped s.cfg.tx, outs := s.outs ++ [.popByte .txq (some b)] } := by
  rw [State.popTx, Queue.pop_of_read he hc hb]
  rfl

/-! ## Roles -/

theorem exec_qPush_of_foreign {who : Role} {item : QItem} (h : who ≠ producerOf (itemQueue item)) :
    exec (.qPush who item) s = .fault .role := if_neg h

theorem exec_qPop_of_foreign {who : Role} {q : QId} (h : who ≠ consumerOf q) :
    exec (.qPop who q) s = .fault .role := if_neg h

/-- A transaction from outside at an internal unit's side is a fault (R281; log entry 14). -/
theorem step_of_internal_port {p : PortSig} {i : Instr} (hs : s.sched = .port p :: rest)
    (hp : PortSig.external p = false) (hd : decode (.port p) = .ok i) : step s = .fault .role := by
  rw [step_eq, fetch_of_port hs]
  simp [fetchPort, hd, hp]

/-- The parser, the dispatcher and the encoder have no port outside (R108, R133). -/
theorem not_external_of_internal {who : Role} (hwho : who = .parser ∨ who = .dispatcher ∨ who = .encoder) :
    (who != .parser && who != .dispatcher && who != .encoder) = false := by
  obtain rfl | rfl | rfl := hwho <;> rfl

end

/-- Settles O8: each queue's synchroniser by its condition; FQ is Immediate. -/
theorem synchroniserSteps : Obligations.SynchroniserSteps := by
  intro s rest
  refine ⟨fun hs => ?_, fun hs => ?_, fun hs => ?_, fun hs => ?_, fun hs => step_of_syncP hs, fun hs => step_of_syncC hs⟩
  · rw [step_of_syncP hs, State.syncP, Queue.syncP_eq_ite]
    rfl
  · rw [step_of_syncC hs, State.syncC, Queue.syncC_eq_ite]
    rfl
  · rw [step_of_syncP hs, State.syncP, Queue.syncP_eq_ite]
    rfl
  · rw [step_of_syncC hs, State.syncC, Queue.syncC_eq_ite]
    rfl

/-- Settles O10: the port of each queue's producer, and the slot a push writes. -/
theorem qPushCompletes : Obligations.QPushCompletes := fun s =>
  ⟨fun _ hp => ⟨pushResult_pushRx hp, pushResult_pushRx hp⟩, fun _ hp => pushResult_pushFq hp,
   fun _ hp => pushResult_pushTx hp, fun g b => Queue.read_pushed g s.rx b, fun g v => Queue.read_pushed g s.fq v,
   fun g b => Queue.read_pushed g s.tx b⟩

/-- Settles O11: the port of each queue's consumer, by whether it sees an element. -/
theorem qPopCompletes : Obligations.QPopCompletes := fun _ =>
  ⟨popByteResult_popRx_of_empty, fun _ => popByteResult_popRx_of_read,
   popViewResult_popFq_of_empty, fun _ => popViewResult_popFq_of_read,
   fun he => ⟨popByteResult_popTx_of_empty he, popByteResult_popTx_of_empty he⟩,
   fun _ he hc hb => ⟨popByteResult_popTx_of_read he hc hb, popByteResult_popTx_of_read he hc hb⟩⟩

/-- Settles O13: the roles, the test of each row, and the test of a turn from outside. -/
theorem foreignRoleFaults : Obligations.ForeignRoleFaults :=
  ⟨⟨rfl, rfl, rfl, rfl, rfl, rfl⟩, fun _ _ =>
    ⟨fun _ h => exec_qPush_of_foreign h, fun _ h => exec_qPop_of_foreign h,
     fun _ _ _ hs hkey hwho => step_of_internal_port hs (not_external_of_internal hwho) (if_pos hkey),
     fun _ _ _ hs hkey hwho => step_of_internal_port hs (not_external_of_internal hwho) (if_pos hkey)⟩⟩

end Sys2Proof.Machine
end

section
/-! The parser's rows, one byte at a time: the row that a byte selects and what it leaves of the state (R140 to R157), then the bytes
after an overflow (R163). -/

namespace Sys2Proof.Machine

section
variable {s t : State} {st : PState} {c : Byte} {xs : List Byte} {i : Instr} {o u : Host.Outcome State Fault Refusal}

/-! ## The row of a byte, run alone and by its selection -/

/-- A byte that fits runs the row of the parser's state (R95, R140). -/
theorem State.parseByte_eq_exec (hst : s.pstate = st) (hw : s.w < s.cfg.size) (hrow : parserRow st c = i) :
    s.parseByte c = exec i s := by
  subst hst hrow
  simp only [State.parseByte, State.decode_byteSignal_of_lt hw]

/-- A row has its effect where a byte selects it, and so has the byte. -/
theorem exec_and_parseByte_of_selected {ok : Bool} (hst : s.pstate = st) (hw : s.w < s.cfg.size) (hok : ok = true)
    (hrow : parserRow st c = i) (hexec : exec i s = onRow (s.inRow st ok) o) : exec i s = o ∧ s.parseByte c = o := by
  have hrun : exec i s = o := hexec.trans (onRow_of_selected hst hw hok)
  exact ⟨hrun, (State.parseByte_eq_exec hst hw hrow).trans hrun⟩

/-- The row of a state's own byte. -/
theorem exec_and_parseByte_own (hst : s.pstate = st) (hw : s.w < s.cfg.size) (hc : c = ownByte st)
    (hrow : parserRow st (ownByte st) = i) (hexec : exec i s = onRow (s.inRow st true) o) :
    exec i s = o ∧ s.parseByte c = o :=
  exec_and_parseByte_of_selected hst hw rfl (hc ▸ hrow) hexec

/-- The OTHER row of a state, with any byte but the state's own. -/
theorem exec_and_parseByte_other {j : Instr} (hst : s.pstate = st) (hw : s.w < s.cfg.size) (hc : c ≠ ownByte st)
    (hrow : parserRow st c = if c = ownByte st then j else i) (hexec : exec i s = onRow (s.inRow st (c != ownByte st)) o) :
    exec i s = o ∧ s.parseByte c = o :=
  exec_and_parseByte_of_selected hst hw (bne_iff_ne.2 hc) (hrow.trans (if_neg hc)) hexec

/-- P.OVF runs where the guard fires (R141). -/
theorem exec_pOvf_of_guard (hw : s.cfg.size ≤ s.w) :
    exec (.pOvf s.pstate.code c) s = .next (s.resetIdx.enterError (.scratchOverflow c)) := by
  have hg : s.guard = true := decide_eq_true hw
  have hsel : (s.guard && s.pstate.code == s.pstate.code) = true := by rw [hg, beq_self_eq_true, Bool.and_self]
  exact if_pos hsel

/-- Under the invariant the guard fires only in the states that follow a stored byte (R159, R162). -/
theorem State.Inv.pstate_of_guard (h : s.Inv) (hw : s.cfg.size ≤ s.w) :
    s.pstate = .readPath ∨ s.pstate = .waitD ∨ s.pstate = .waitDColon ∨ s.pstate = .readData := by
  have hpos := s.size_pos
  have hl := h.layout
  cases hst : s.pstate with
  | waitStart =>
    rw [State.layout_iff_of_waitStart hst] at hl
    omega
  | waitP =>
    rw [State.layout_iff_of_waitP hst] at hl
    omega
  | waitPColon =>
    rw [State.layout_iff_of_waitPColon hst] at hl
    omega
  | error =>
    rw [State.layout_iff_of_error hst] at hl
    omega
  | readPath => exact .inl rfl
  | waitD => exact .inr (.inl rfl)
  | waitDColon => exact .inr (.inr (.inl rfl))
  | readData => exact .inr (.inr (.inr rfl))

/-- The close brace with FQ full drops the frame (R154). -/
theorem State.parseByte_frameDropped (hst : s.pstate = .readData) (hw : s.w < s.cfg.size)
    (hfull : (s.fq.prod + 1) % s.cfg.cFq = s.fq.cons) :
    s.parseByte chRBrace =
      .next { (s.stored [sentinel]).resetIdx with
                pstate := .error, events := s.events ++ [.pushFull .fq, .frameqFull] } := by
  have hpush : s.endData.pushFq s.endData.frameView = .ok (s.endData.raise (.pushFull .fq), false) := by
    rw [State.pushFq_eq, Queue.push_of_fullP (Queue.fullP_iff.2 hfull)]
  have hevents : s.events ++ [Event.pushFull .fq] ++ [.frameqFull] = s.events ++ [.pushFull .fq, .frameqFull] :=
    List.append_assoc _ _ _
  rw [State.parseByte_eq_exec hst hw rfl, ← hevents]
  change execPRdRbrace s = _
  rw [execPRdRbrace, onRow_of_selected hst hw rfl, hpush]
  rfl

/-! ## What a byte leaves unchanged -/

/-- From `s` to `t` only the parser's own registers, the scratch byte at the write index, FQ and the trace have changed. -/
def State.ParserFrame (s t : State) : Prop :=
  t = { s with scr := t.scr, fq := t.fq, pstate := t.pstate, w := t.w, pathStart := t.pathStart, pathLen := t.pathLen,
               dataStart := t.dataStart, dataLen := t.dataLen, scrGen := t.scrGen, events := t.events } ∧
    ∀ a, a ≠ s.w → Memory.read t.scr a = Memory.read s.scr a

/-- A byte that answers next within the parser's frame. -/
def State.NextInFrame (s : State) (o : Host.Outcome State Fault Refusal) : Prop := ∃ t, o = .next t ∧ s.ParserFrame t

/-- The scratch buffer untouched. -/
theorem State.nextInFrame_of_registers
    (ht : t = { s with pstate := t.pstate, w := t.w, pathStart := t.pathStart, pathLen := t.pathLen, dataStart := t.dataStart,
                       dataLen := t.dataLen, scrGen := t.scrGen, events := t.events }) : s.NextInFrame (.next t) := by
  refine ⟨t, rfl, ?_, fun a _ => ?_⟩ <;> rw [ht]

/-- One scratch byte written, at the write index. -/
theorem State.nextInFrame_of_write {b : Byte}
    (ht : t = { s with scr := Memory.write s.scr s.w b, fq := t.fq, pstate := t.pstate, w := t.w, pathStart := t.pathStart,
                       pathLen := t.pathLen, dataStart := t.dataStart, dataLen := t.dataLen, events := t.events }) :
    s.NextInFrame (.next t) := by
  refine ⟨t, rfl, ?_, fun a ha => ?_⟩ <;> rw [ht]
  exact Memory.read_write_other _ _ _ _ ha

theorem State.nextInFrame_ite {p : Prop} [Decidable p] (ho : s.NextInFrame o) (hu : s.NextInFrame u) :
    s.NextInFrame (if p then o else u) := by
  split <;> assumption

/-- The close brace stores the sentinel, and its frame is queued or dropped (R154). -/
theorem State.nextInFrame_frameEnd (hst : s.pstate = .readData) (hw : s.w < s.cfg.size) (hp : s.fq.prod < s.cfg.cFq) :
    s.NextInFrame (s.parseByte chRBrace) := by
  by_cases hfull : (s.fq.prod + 1) % s.cfg.cFq = s.fq.cons
  · rw [State.parseByte_frameDropped hst hw hfull]
    exact State.nextInFrame_of_write (b := sentinel) rfl
  · rw [State.parseByte_frameEnd hst hw hp hfull]
    exact State.nextInFrame_of_write (b := sentinel) rfl

/-- A byte appended is stored at the write index (R149, R155). -/
theorem State.nextInFrame_append (s : State) (c : Byte) : s.NextInFrame (.next (s.append c)) :=
  State.nextInFrame_of_write (b := c) rfl

/-- Whatever the byte and the parser's state, a byte answers next within the parser's frame (R140, R242). -/
theorem State.nextInFrame_parseByte (hp : s.fq.prod < s.cfg.cFq) (c : Byte) : s.NextInFrame (s.parseByte c) := by
  rcases Nat.lt_or_ge s.w s.cfg.size with hw | hw
  · cases hst : s.pstate with
    | readData =>
      by_cases hc : c = chRBrace
      · subst hc
        exact State.nextInFrame_frameEnd hst hw hp
      · rw [State.parseByte_of_storesByte hw ⟨.inr hst, hst ▸ hc⟩]
        exact s.nextInFrame_append c
    | readPath =>
      rw [State.parseByte_of_lt hw]
      simp only [State.byteEffect, hst]
      exact State.nextInFrame_ite (State.nextInFrame_of_write (b := sentinel) rfl) (s.nextInFrame_append c)
    | _ =>
      rw [State.parseByte_of_lt hw]
      simp only [State.byteEffect, hst]
      exact State.nextInFrame_ite (State.nextInFrame_of_registers rfl) (State.nextInFrame_of_registers rfl)
  · rw [State.parseByte_of_guard hw]
    exact State.nextInFrame_of_registers rfl

/-! ## The way out of Error -/

/-- Bytes that are no open brace are ignored in Error (R157). -/
theorem State.parseBytes_of_error (hst : s.pstate = .error) (hw : s.w < s.cfg.size) (hxs : chLBrace ∉ xs) :
    s.parseBytes xs = .next s := by
  induction xs with
  | nil => rfl
  | cons c xs ih =>
    obtain ⟨hc, hrest⟩ := not_or.1 (mt List.mem_cons.2 hxs)
    obtain ⟨-, hignored⟩ := exec_and_parseByte_other (c := c) hst hw (Ne.symm hc) rfl rfl
    rw [State.parseBytes_cons_of_next hignored, ih hrest]

/-- Bytes that are no open brace, and then one, start a frame out of Error (R156, R157). -/
theorem State.parseBytes_skip_beginFrame (hst : s.pstate = .error) (hw : s.w < s.cfg.size) (hxs : chLBrace ∉ xs) :
    s.parseBytes (xs ++ [chLBrace]) = .next s.beginFrame := by
  obtain ⟨-, hbrace⟩ := exec_and_parseByte_own (c := chLBrace) hst hw rfl rfl rfl
  rw [State.parseBytes_append_of_next (State.parseBytes_of_error hst hw hxs), State.parseBytes_cons_of_next hbrace]
  rfl

end

/-! ## The obligations -/

/-- Settles O30, from the parser's frame. -/
theorem parserTouchesNothingElse : Obligations.ParserTouchesNothingElse := fun _ c hp => State.nextInFrame_parseByte hp c

/-- Settles O34: the overflow enters Error with the indices cleared, and the way out of Error follows. -/
theorem overflowRecovery : Obligations.OverflowRecovery := by
  intro s c skipped hw hskipped
  refine ⟨(s.resetIdx.enterError (.scratchOverflow c)).beginFrame, ?_, rfl, rfl, rfl, rfl, rfl, rfl⟩
  rw [List.cons_append, State.parseBytes_cons_of_next (State.parseByte_of_guard hw)]
  exact State.parseBytes_skip_beginFrame rfl s.size_pos hskipped

/-- Settles O20. -/
theorem overflowGuardDropsByte : Obligations.OverflowGuardDropsByte := fun _ _ hw =>
  ⟨fun h => h.pstate_of_guard hw, exec_pOvf_of_guard hw, State.parseByte_of_guard hw⟩

/-- Settles O21: the open brace is the own byte of WaitStart and of Error. -/
theorem frameStartRows : Obligations.FrameStartRows := by
  intro s hw
  exact ⟨fun hst => exec_and_parseByte_own hst hw rfl rfl rfl, fun hst => exec_and_parseByte_own hst hw rfl rfl rfl⟩

/-- Settles O22. -/
theorem ignoredByteRows : Obligations.IgnoredByteRows := by
  intro s c hw hc
  exact ⟨fun hst => exec_and_parseByte_other hst hw hc rfl rfl, fun hst => exec_and_parseByte_other hst hw hc rfl rfl⟩

/-- Settles O23: each tag is its state's own byte. -/
theorem tagRows : Obligations.TagRows := by
  intro s hw
  exact ⟨fun hst => exec_and_parseByte_own hst hw rfl rfl rfl, fun hst => exec_and_parseByte_own hst hw rfl rfl rfl⟩

/-- Settles O24: the OTHER rows of the four states that wait for a tag or its colon. -/
theorem mismatchRows : Obligations.MismatchRows := by
  intro s c hw
  refine ⟨fun hst hc => ?_, fun hst hc => ?_, fun hst hc => ?_, fun hst hc => ?_⟩ <;> rw [hst] <;>
    exact exec_and_parseByte_other hst hw hc rfl rfl

/-- Settles O25: the colon is the own byte of both states, and the layout gives the two offsets. -/
theorem markRows : Obligations.MarkRows := by
  intro s hw
  refine ⟨fun hst => exec_and_parseByte_own hst hw rfl rfl rfl, fun hst => exec_and_parseByte_own hst hw rfl rfl rfl,
    fun h => ⟨fun hst => (State.layout_iff_of_waitPColon hst).1 h.layout, fun hst => ?_⟩⟩
  obtain ⟨-, hwrite, -⟩ := (State.layout_iff_of_waitDColon hst).1 h.layout
  exact hwrite

/-- Settles O26. -/
theorem pathEndRow : Obligations.PathEndRow := by
  intro s hw hst
  obtain ⟨hexec, hparse⟩ := exec_and_parseByte_own (i := .pRpColon) (c := chColon) hst hw rfl rfl rfl
  exact ⟨_, hexec, hparse, rfl, Memory.read_write s.scr s.w sentinel⟩

/-- Settles O27: the OTHER rows of the two states that store a byte. -/
theorem appendRows : Obligations.AppendRows := by
  intro s c i hw hsel
  have hrun : exec i s = .next (s.append c) ∧ s.parseByte c = .next (s.append c) := by
    obtain ⟨hst, hc, rfl⟩ | ⟨hst, hc, rfl⟩ := hsel
    · exact exec_and_parseByte_other hst hw hc rfl rfl
    · exact exec_and_parseByte_other hst hw hc rfl rfl
  obtain ⟨hexec, hparse⟩ := hrun
  exact ⟨_, hexec, hparse, rfl, Memory.read_write s.scr s.w c⟩

/-- Settles O28, by whether FQ is full. -/
theorem frameEndRow : Obligations.FrameEndRow := by
  intro s hw hst hp
  have hexec : exec .pRdRbrace s = s.parseByte chRBrace := (State.parseByte_eq_exec (c := chRBrace) hst hw rfl).symm
  constructor
  · intro h
    obtain ⟨hps, hds, hdw, -⟩ := (State.layout_iff_of_readData hst).1 h.layout
    exact ⟨hps, hds, hdw⟩
  · by_cases hfull : (s.fq.prod + 1) % s.cfg.cFq = s.fq.cons
    · have hparse := State.parseByte_frameDropped hst hw hfull
      exact ⟨_, hexec.trans hparse, hparse, Memory.read_write s.scr s.w sentinel, (if_pos hfull).symm⟩
    · have hparse := State.parseByte_frameEnd hst hw hp hfull
      exact ⟨_, hexec.trans hparse, hparse, Memory.read_write s.scr s.w sentinel, (if_neg hfull).symm⟩

end Sys2Proof.Machine
end

section
/-! A running P.POLL that keeps its turns: each iteration leaves one byte fewer in sight, and the last finds none (R160, R161, R289). -/

namespace Sys2Proof.Machine

/-! ## The bytes in sight of the consumer -/

section
variable {α : Type} {g : Geometry} {q : Queue α}

/-- A pop leaves the consumer side one element fewer in sight (R72, R124). -/
theorem Queue.visible_popped (h : q.inv g) (he : q.emptyC g = false) : (q.popped g).visible g + 1 = q.visible g := by
  obtain ⟨hr, -⟩ := id h
  have hne : q.cons ≠ q.prodView g := fun e => by simp [Queue.emptyC, ← e] at he
  have hlt : q.prodView g < g.cap := Queue.prodView_lt hr
  exact dist_advance_left h.cons_lt hlt hne

/-- The consumer side sees the queue empty exactly when no element is in sight (R123). -/
theorem Queue.emptyC_iff_visible (h : q.inv g) : q.emptyC g = true ↔ q.visible g = 0 := by
  constructor
  · intro he
    have hview : q.prodView g = q.cons := eq_of_beq he
    rw [Queue.visible, hview, dist_self h.cons_lt]
  · intro hv
    cases he : q.emptyC g with
    | true => rfl
    | false => exact absurd hv (Nat.ne_of_gt (Queue.visible_pos_of_not_emptyC h he))

end

/-! ## The drain -/

section
variable {s t u : State} {rest : List Turn} {n : Nat}

/-- A run of a machine takes its first step and goes on from there. -/
theorem run_succ_of_core_step {M : Host.Core} {a b : M.State} (k : Nat) (h : M.step a = .next b) :
    M.run (k + 1) a = M.run k b := by
  rw [Host.Core.run, h]

theorem run_succ_of_step (k : Nat) (h : step s = .next t) :
    Host.Core.run Sys2Proof.core (k + 1) s = Host.Core.run Sys2Proof.core k t :=
  run_succ_of_core_step (M := Sys2Proof.core) k h

/-- What a P.POLL that has drained RXQ has done since `s`: it consumed what was in sight and showed its completion alone. -/
structure State.Drained (s : State) (rest : List Turn) (t : State) : Prop where
  done : t.pollActive = false
  sched : t.sched = rest
  consumed : t.rx.cons = s.rx.prodView s.cfg.rx
  empty : t.rx.emptyC t.cfg.rx = true
  tx : t.tx = s.tx
  outs : t.outs = s.outs ++ [.cmdDone true]

/-- The drain may be counted from any earlier state with the same bytes exposed, the same TXQ and the same record. -/
theorem State.Drained.of_earlier (h : u.Drained rest t) (hview : u.rx.prodView u.cfg.rx = s.rx.prodView s.cfg.rx)
    (htx : u.tx = s.tx) (houts : u.outs = s.outs) : s.Drained rest t :=
  ⟨h.done, h.sched, h.consumed.trans hview, h.empty, h.tx.trans htx, by rw [h.outs, houts]⟩

/-- With no byte in sight the iteration ends the P.POLL (R160). -/
theorem State.exists_drained_of_empty (ha : s.pollActive = true) (hs : s.sched = .task :: rest)
    (he : s.rx.emptyC s.cfg.rx = true) : ∃ t, step s = .next t ∧ s.Drained rest t := by
  have hview : s.rx.prodView s.cfg.rx = s.rx.cons := eq_of_beq he
  exact ⟨_, step_of_poll_empty hs ha (Queue.pop_of_empty hview), rfl, rfl, hview.symm, he, rfl, rfl⟩

/-- With a byte in sight the iteration takes it from RXQ and keeps the invariant, and beyond that stays in the parser's frame
(R140, R160). -/
theorem State.Inv.exists_step_of_poll (h : s.Inv) (ha : s.pollActive = true) (hs : s.sched = .task :: rest)
    (he : s.rx.emptyC s.cfg.rx = false) : ∃ u, step s = .next u ∧ u.Inv ∧
      State.ParserFrame { s with sched := rest, rx := s.rx.popped s.cfg.rx } u := by
  obtain ⟨c, hpop, -⟩ := Queue.pop_eq_of_not_emptyC h.rx he
  obtain ⟨u, hu, hframe⟩ :=
    State.nextInFrame_parseByte (s := { s with sched := rest, rx := s.rx.popped s.cfg.rx }) h.fq.prod_lt c
  have hstep : step s = .next u := (step_of_poll_pop hs ha hpop).trans hu
  exact ⟨u, hstep, stepKeepsInvariant s u h hstep, hframe⟩

/-- As many turns as there are bytes in sight, and one more, drain RXQ (R161, R289). -/
theorem State.Inv.exists_drained (h : s.Inv) (ha : s.pollActive = true)
    (hs : s.sched = List.replicate (n + 1) .task ++ rest) (hn : s.rx.visible s.cfg.rx = n) :
    ∃ t, Host.Core.run Sys2Proof.core (n + 1) s = .next t ∧ s.Drained rest t := by
  induction n generalizing s with
  | zero =>
    obtain ⟨t, hstep, ht⟩ := State.exists_drained_of_empty ha hs ((Queue.emptyC_iff_visible h.rx).2 hn)
    exact ⟨t, run_succ_of_step 0 hstep, ht⟩
  | succ n ih =>
    have he : s.rx.emptyC s.cfg.rx = false :=
      Bool.eq_false_iff.2 fun he => Nat.succ_ne_zero n (hn.symm.trans ((Queue.emptyC_iff_visible h.rx).1 he))
    have hfewer : (s.rx.popped s.cfg.rx).visible s.cfg.rx = n :=
      Nat.succ.inj ((Queue.visible_popped h.rx he).trans hn)
    obtain ⟨u, hstep, hinv, hframe, -⟩ := h.exists_step_of_poll ha hs he
    obtain ⟨t, hrun, ht⟩ := ih hinv (by rw [hframe]; exact ha) (by rw [hframe]; rfl) (by rw [hframe]; exact hfewer)
    refine ⟨t, (run_succ_of_step (n + 1) hstep).trans hrun, ht.of_earlier ?_ ?_ ?_⟩
    · rw [hframe]
      rfl
    · rw [hframe]
    · rw [hframe]

end

/-- Settles O39, by induction on the bytes in sight. -/
theorem pollDrainsVisible : Obligations.PollDrainsVisible := by
  intro s rest h ha hs
  obtain ⟨t, hrun, ht⟩ := h.exists_drained ha hs rfl
  exact ⟨t, hrun, ht.done, ht.sched, ht.consumed, ht.empty, ht.tx, ht.outs⟩

end Sys2Proof.Machine
end

section
/-! RoundFLT (R183): the number that binary32 bits spell grows with them, and the bits that `roundBits` picks spell a number nearest to the
rational, a tie going to the even significand. -/

namespace Sys2Proof.Machine

/-! ## The numbers that bits spell -/

/-- The number that the bits `y` of a non-negative binary32 value spell, in units of 2^-149, with no bound on the exponent (R183). -/
def unitsOfBits (y : Nat) : Nat := if y / 2 ^ 23 = 0 then y % 2 ^ 23 else (2 ^ 23 + y % 2 ^ 23) * 2 ^ (y / 2 ^ 23 - 1)

theorem floatExp_eq (x : Word) : floatExp x = x.toNat / 2 ^ 23 % 2 ^ 8 := by
  rw [floatExp, BitVec.extractLsb'_toNat, Nat.shiftRight_eq_div_pow]

theorem floatFrac_eq (x : Word) : floatFrac x = x.toNat % 2 ^ 23 := by
  rw [floatFrac, BitVec.extractLsb'_toNat, Nat.shiftRight_eq_div_pow, pow_zero, Nat.div_one]

theorem floatUnits_ofNat {y : Nat} (hy : y < 0x7F800000) : floatUnits (BitVec.ofNat 32 y) = unitsOfBits y := by
  have hword : (BitVec.ofNat 32 y).toNat = y := by
    rw [BitVec.toNat_ofNat]
    omega
  have hexp : y / 2 ^ 23 % 2 ^ 8 = y / 2 ^ 23 := by omega
  rw [floatUnits, floatExp_eq, floatFrac_eq, hword, hexp, unitsOfBits]

/-- The step of exponent `e` and the significand `m`, also where `m` has carried into the exponent. -/
theorem unitsOfBits_mul_add {e m : Nat} (he : e = 0 ∨ 2 ^ 23 ≤ m) (hm : m ≤ 2 ^ 24) :
    unitsOfBits (e * 2 ^ 23 + m) = m * 2 ^ e := by
  rcases Nat.lt_or_ge m (2 ^ 23) with hlt | hge
  · obtain rfl : e = 0 := by omega
    rw [unitsOfBits, if_pos (by omega)]
    omega
  · obtain rfl | hcarry := Nat.eq_or_lt_of_le hm
    · have hdiv : (e * 2 ^ 23 + 2 ^ 24) / 2 ^ 23 = e + 2 := by omega
      have hmod : (e * 2 ^ 23 + 2 ^ 24) % 2 ^ 23 = 0 := by omega
      rw [unitsOfBits, hdiv, hmod, if_neg (by omega), show e + 2 - 1 = e + 1 by omega, Nat.pow_succ]
      omega
    · have hdiv : (e * 2 ^ 23 + m) / 2 ^ 23 = e + 1 := by omega
      have hmod : (e * 2 ^ 23 + m) % 2 ^ 23 = m - 2 ^ 23 := by omega
      rw [unitsOfBits, hdiv, hmod, if_neg (by omega), Nat.add_sub_cancel, Nat.add_sub_cancel' hge]

theorem exists_exponent_significand (y : Nat) : ∃ e m, y = e * 2 ^ 23 + m ∧ (e = 0 ∨ 2 ^ 23 ≤ m) ∧ m < 2 ^ 24 := by
  rcases Nat.lt_or_ge y (2 ^ 23) with h | h
  · exact ⟨0, y, by omega, .inl rfl, by omega⟩
  · exact ⟨y / 2 ^ 23 - 1, 2 ^ 23 + y % 2 ^ 23, by omega, .inr (by omega), by omega⟩

theorem unitsOfBits_strictMono : StrictMono unitsOfBits := by
  refine strictMono_nat_of_lt_succ fun y => ?_
  obtain ⟨e, m, rfl, he, hm⟩ := exists_exponent_significand y
  rw [unitsOfBits_mul_add he hm.le, Nat.add_assoc, unitsOfBits_mul_add (he.imp_right (by omega)) hm]
  exact Nat.mul_lt_mul_of_pos_right m.lt_succ_self (by positivity)

/-! ## Rounding to a natural -/

/-- `a` is at most `b`, and `m` is even where they tie. -/
def LeTieEven (m a b : Nat) : Prop := a < b ∨ a = b ∧ m % 2 = 0

theorem LeTieEven.le {m a b : Nat} (h : LeTieEven m a b) : a ≤ b := by
  rcases h with h | ⟨h, -⟩ <;> omega

theorem LeTieEven.mono {m m' a a' b b' : Nat} (h : LeTieEven m a b) (ha : a' ≤ a) (hb : b ≤ b')
    (hm : m % 2 = 0 → m' % 2 = 0) : LeTieEven m' a' b' := by
  rcases h with h | ⟨rfl, h⟩
  · exact .inl (by omega)
  · have := hm h
    unfold LeTieEven
    omega

theorem LeTieEven.of_add_right {m a b c : Nat} (h : LeTieEven m (a + c) (b + c)) : LeTieEven m a b := by
  unfold LeTieEven at h ⊢
  omega

/-- The rounded quotient is at most half a unit below `u / D`, and at most half a unit above it (R183). -/
theorem divNearestEven_nearest (u : Nat) {D : Nat} (hD : 0 < D) :
    LeTieEven (divNearestEven u D) (2 * u) ((2 * divNearestEven u D + 1) * D) ∧
    LeTieEven (divNearestEven u D) (2 * divNearestEven u D * D) (2 * u + D) := by
  have hu : D * (u / D) + u % D = u := Nat.div_add_mod u D
  have hr : u % D < D := Nat.mod_lt u hD
  have hdown : 2 * (u / D) * D = 2 * (D * (u / D)) := by ring
  have hdown' : (2 * (u / D) + 1) * D = 2 * (D * (u / D)) + D := by ring
  have hup : 2 * (u / D + 1) * D = 2 * (D * (u / D)) + 2 * D := by ring
  have hup' : (2 * (u / D + 1) + 1) * D = 2 * (D * (u / D)) + 3 * D := by ring
  simp only [divNearestEven, LeTieEven]
  split_ifs <;> omega

/-! ## Rounding to binary32 -/

/-- `u / d` units lie in the step of exponent `e`, which gives them 24 significant bits, and `m` is nearest to them in that step (R183). -/
structure Rounded (u d e m : Nat) : Prop where
  lt : u < 2 ^ 24 * (d * 2 ^ e)
  ge : e = 0 ∨ 2 ^ 23 * (d * 2 ^ e) ≤ u
  above : LeTieEven m (2 * u) ((2 * m + 1) * (d * 2 ^ e))
  below : LeTieEven m (2 * m * (d * 2 ^ e)) (2 * u + d * 2 ^ e)

/-- The bits are an exponent and the significand rounded in its step (R183). -/
theorem exists_rounded (n : Nat) {d : Nat} (hd : 0 < d) :
    ∃ e m, roundBits n d = e * 2 ^ 23 + m ∧ Rounded (n * 2 ^ 149) d e m := by
  by_cases hw : n * 2 ^ 149 / d < 2 ^ 24
  · obtain ⟨habove, hbelow⟩ := divNearestEven_nearest (n * 2 ^ 149) (D := d * 2 ^ 0) (by omega)
    refine ⟨0, _, by simp only [roundBits, if_pos hw], ?_, .inl rfl, habove, hbelow⟩
    have := (Nat.div_lt_iff_lt_mul hd).1 hw
    omega
  · have hlow := (Nat.le_div_iff_mul_le hd).1 (Nat.log2_self_le (n := n * 2 ^ 149 / d) (by omega))
    have hhigh := (Nat.div_lt_iff_lt_mul hd).1 (Nat.lt_log2_self (n := n * 2 ^ 149 / d))
    have hlog : 24 ≤ (n * 2 ^ 149 / d).log2 := (Nat.le_log2 (by omega)).2 (by omega)
    obtain ⟨e, he⟩ : ∃ e, (n * 2 ^ 149 / d).log2 = e + 23 := ⟨_, (Nat.sub_add_cancel (by omega)).symm⟩
    obtain ⟨habove, hbelow⟩ := divNearestEven_nearest (n * 2 ^ 149) (D := d * 2 ^ e) (by positivity)
    refine ⟨e, _, by simp only [roundBits, if_neg hw, he, Nat.add_sub_cancel], ?_, .inr ?_, habove, hbelow⟩
    · calc n * 2 ^ 149 < 2 ^ ((n * 2 ^ 149 / d).log2 + 1) * d := hhigh
        _ = 2 ^ 24 * (d * 2 ^ e) := by rw [he]; ring
    · calc 2 ^ 23 * (d * 2 ^ e) = 2 ^ (n * 2 ^ 149 / d).log2 * d := by rw [he]; ring
        _ ≤ n * 2 ^ 149 := hlow

/-- How far the number that the bits `y` spell is from `u / d` units, `d` times over. -/
def unitsError (u d y : Nat) : Nat := (((unitsOfBits y * d : Nat) : Int) - (u : Int)).natAbs

section
variable {u d e m x : Nat}

/-- The significand is at most the one that carries. -/
theorem Rounded.significand_le (h : Rounded u d e m) (hd : 0 < d) : m ≤ 2 ^ 24 := by
  have hD : 0 < d * 2 ^ e := by positivity
  have hmul : 2 * m * (d * 2 ^ e) < (2 * 2 ^ 24 + 1) * (d * 2 ^ e) := by
    have := h.lt
    have := h.below.le
    omega
  have := Nat.lt_of_mul_lt_mul_right hmul
  omega

theorem Rounded.le_significand (h : Rounded u d e m) (hd : 0 < d) : e = 0 ∨ 2 ^ 23 ≤ m := by
  have hD : 0 < d * 2 ^ e := by positivity
  refine h.ge.imp_right fun hge => ?_
  have hmul : 2 * 2 ^ 23 * (d * 2 ^ e) ≤ (2 * m + 1) * (d * 2 ^ e) := by
    have := h.above.le
    omega
  have := Nat.le_of_mul_le_mul_right hmul hD
  omega

theorem Rounded.unitsOfBits_eq (h : Rounded u d e m) (hd : 0 < d) : unitsOfBits (e * 2 ^ 23 + m) = m * 2 ^ e :=
  unitsOfBits_mul_add (h.le_significand hd) (h.significand_le hd)

/-- The number is at most half way from the bits' number to any larger one (R183). -/
theorem Rounded.le_half_way_above (h : Rounded u d e m) (hd : 0 < d) (hx : e * 2 ^ 23 + m < x) :
    LeTieEven (e * 2 ^ 23 + m) (2 * u) ((unitsOfBits (e * 2 ^ 23 + m) + unitsOfBits x) * d) := by
  have hmono := unitsOfBits_strictMono hx
  have hunits := h.unitsOfBits_eq hd
  rcases Nat.lt_or_ge (m * (d * 2 ^ e)) u with hlt | hge
  · have hm : m < 2 ^ 24 := Nat.lt_of_mul_lt_mul_right (hlt.trans h.lt)
    have hnext : (m + 1) * 2 ^ e ≤ unitsOfBits x := by
      rw [← unitsOfBits_mul_add ((h.le_significand hd).imp_right (by omega)) hm]
      exact unitsOfBits_strictMono.monotone hx
    refine h.above.mono le_rfl ?_ (by omega)
    calc (2 * m + 1) * (d * 2 ^ e) = (m * 2 ^ e + (m + 1) * 2 ^ e) * d := by ring
      _ ≤ _ := Nat.mul_le_mul_right d (by omega)
  · left
    calc 2 * u ≤ (m * 2 ^ e + m * 2 ^ e) * d := by linarith
      _ < _ := Nat.mul_lt_mul_of_pos_right (by omega) hd

/-- The number is at least half way from any smaller number to the bits' (R183). -/
theorem Rounded.half_way_below_le (h : Rounded u d e m) (hd : 0 < d) (hx : x < e * 2 ^ 23 + m) :
    LeTieEven (e * 2 ^ 23 + m) ((unitsOfBits x + unitsOfBits (e * 2 ^ 23 + m)) * d) (2 * u) := by
  have hmono := unitsOfBits_strictMono hx
  have hunits := h.unitsOfBits_eq hd
  rcases Nat.lt_or_ge u (m * (d * 2 ^ e)) with hlt | hge
  · have hm : e = 0 ∨ 2 ^ 23 < m := h.ge.imp_right fun hge => Nat.lt_of_mul_lt_mul_right (hge.trans_lt hlt)
    obtain ⟨k, rfl⟩ : ∃ k, m = k + 1 := ⟨m - 1, by omega⟩
    have hprev : unitsOfBits x ≤ k * 2 ^ e := by
      rw [← unitsOfBits_mul_add (hm.imp_right (by omega)) (by have := h.significand_le hd; omega)]
      exact unitsOfBits_strictMono.monotone (by omega)
    have hbelow : LeTieEven (k + 1) ((2 * k + 1) * (d * 2 ^ e)) (2 * u) :=
      LeTieEven.of_add_right (c := d * 2 ^ e) (by convert h.below using 1; ring)
    refine hbelow.mono ?_ le_rfl (by omega)
    calc _ ≤ (k * 2 ^ e + (k + 1) * 2 ^ e) * d := Nat.mul_le_mul_right d (by omega)
      _ = (2 * k + 1) * (d * 2 ^ e) := by ring
  · left
    calc _ < (m * 2 ^ e + m * 2 ^ e) * d := Nat.mul_lt_mul_of_pos_right (by omega) hd
      _ ≤ 2 * u := by linarith

/-- No bits spell a number nearer to `u / d`, and others one as near only where these are even (R183). -/
theorem Rounded.nearest (h : Rounded u d e m) (hd : 0 < d) (x : Nat) :
    unitsError u d (e * 2 ^ 23 + m) ≤ unitsError u d x ∧
      (unitsError u d (e * 2 ^ 23 + m) = unitsError u d x → x ≠ e * 2 ^ 23 + m → (e * 2 ^ 23 + m) % 2 = 0) := by
  unfold unitsError
  rcases Nat.lt_trichotomy x (e * 2 ^ 23 + m) with hlt | rfl | hgt
  · have hmono := Nat.mul_lt_mul_of_pos_right (unitsOfBits_strictMono hlt) hd
    have hhalf := h.half_way_below_le hd hlt
    rw [LeTieEven, Nat.add_mul] at hhalf
    omega
  · simp
  · have hmono := Nat.mul_lt_mul_of_pos_right (unitsOfBits_strictMono hgt) hd
    have hhalf := h.le_half_way_above hd hgt
    rw [LeTieEven, Nat.add_mul] at hhalf
    omega

end

/-- The middle of the largest finite number and the number after it, which overflows (R183). -/
theorem unitsOfBits_largest_add_next : unitsOfBits 0x7F7FFFFF + unitsOfBits 0x7F800000 = 2 ^ 150 * (2 ^ 128 - 2 ^ 103) := by
  have hlargest : unitsOfBits 0x7F7FFFFF = (2 ^ 24 - 1) * 2 ^ 253 :=
    unitsOfBits_mul_add (e := 253) (m := 2 ^ 24 - 1) (by simp) (by simp)
  have hnext : unitsOfBits 0x7F800000 = 2 ^ 24 * 2 ^ 253 :=
    unitsOfBits_mul_add (e := 253) (m := 2 ^ 24) (by simp) (by simp)
  rw [hlargest, hnext]
  norm_num

/-- The bits stay in the finite range exactly below that middle: there a tie goes up, the largest significand being odd (R183). -/
theorem roundBits_lt_iff (n : Nat) {d : Nat} (hd : 0 < d) :
    roundBits n d < 0x7F800000 ↔ n < (2 ^ 128 - 2 ^ 103) * d := by
  obtain ⟨e, m, hbits, hr⟩ := exists_rounded n hd
  have hmid := congrArg (· * d) unitsOfBits_largest_add_next
  have hunits : 2 * (n * 2 ^ 149) = 2 ^ 150 * n := by ring
  rw [hbits]
  constructor
  · intro hlt
    suffices h : 2 * (n * 2 ^ 149) < (unitsOfBits 0x7F7FFFFF + unitsOfBits 0x7F800000) * d by
      rw [hunits, hmid, Nat.mul_assoc] at h
      exact Nat.lt_of_mul_lt_mul_left h
    rcases hr.le_half_way_above hd hlt with h | ⟨h, heven⟩
    · have hle := unitsOfBits_strictMono.monotone (Nat.le_of_lt_succ hlt)
      exact h.trans_le (Nat.mul_le_mul_right d (Nat.add_le_add_right hle _))
    · have hlt' : e * 2 ^ 23 + m < 0x7F7FFFFF := by omega
      rw [h]
      exact Nat.mul_lt_mul_of_pos_right (Nat.add_lt_add_right (unitsOfBits_strictMono hlt') _) hd
  · contrapose!
    intro hge
    have hle := unitsOfBits_strictMono.monotone hge
    have h := (hr.half_way_below_le hd (Nat.lt_of_succ_le hge)).le
    have h' := (Nat.mul_le_mul_right d (Nat.add_le_add_left hle (unitsOfBits 0x7F7FFFFF))).trans h
    rw [hunits, hmid, Nat.mul_assoc] at h'
    exact Nat.le_of_mul_le_mul_left h' (by positivity)

theorem roundFloat_eq (k n : Nat) {d : Nat} (hd : 0 < d) : roundFloat k n d =
    if n < (2 ^ 128 - 2 ^ 103) * d then (BitVec.ofNat 32 (roundBits n d), k) else (Config.freeFloat k, k + 1) :=
  if_congr (roundBits_lt_iff n hd) rfl rfl

/-- Settles O51: the bits against every other finite number, and the middle above the largest. -/
theorem roundFloatNearest : Obligations.RoundFloatNearest := by
  intro n d hd
  refine ⟨roundBits_lt_iff n hd, fun hfin x hx => ?_, fun k => roundFloat_eq k n hd⟩
  simp only [floatUnits_ofNat hfin, floatUnits_ofNat hx]
  obtain ⟨e, m, hbits, hr⟩ := exists_rounded n hd
  rw [hbits]
  exact hr.nearest hd x

end Sys2Proof.Machine
end

section
/-! The items of a payload (R178): split at the commas, they are what joining puts between commas, and back. -/

namespace Sys2Proof.Machine

variable {t : List Byte} {ts : List (List Byte)} {pos : Nat} {xs ys data : List Byte}

/-! ## Commas -/

/-- A payload is free of commas, or it is an item before a comma and a payload after it. -/
theorem comma_induction {motive : List Byte → Prop} (last : ∀ xs, chComma ∉ xs → motive xs)
    (split : ∀ xs ys, chComma ∉ xs → motive ys → motive (xs ++ chComma :: ys)) (data : List Byte) : motive data := by
  by_cases h : chComma ∈ data
  · obtain ⟨xs, ys, hdata, hxs⟩ := List.eq_append_cons_of_mem h
    have hlen : ys.length < data.length := by simp [hdata]; omega
    exact hdata ▸ split xs ys hxs (comma_induction last split ys)
  · exact last data h
termination_by data.length

theorem joinItems_cons (h : ts ≠ []) : joinItems (t :: ts) = t ++ chComma :: joinItems ts := by
  cases ts with
  | nil => contradiction
  | cons u us => simp [joinItems]

/-! ## The items, one at a time -/

/-- A payload with no comma is one item. -/
theorem itemsFrom_last (pos : Nat) (h : chComma ∉ xs) : itemsFrom pos xs = [(pos, xs)] := by
  induction xs generalizing pos with
  | nil => rfl
  | cons c cs ih =>
    obtain ⟨hc, hcs⟩ := not_or.1 (mt List.mem_cons.2 h)
    rw [itemsFrom, if_neg (Ne.symm hc), ih _ hcs]

/-- The bytes before a comma are an item, and the items after it begin behind it. -/
theorem itemsFrom_split (pos : Nat) (h : chComma ∉ xs) (ys : List Byte) :
    itemsFrom pos (xs ++ chComma :: ys) = (pos, xs) :: itemsFrom (pos + xs.length + 1) ys := by
  induction xs generalizing pos with
  | nil => rfl
  | cons c cs ih =>
    obtain ⟨hc, hcs⟩ := not_or.1 (mt List.mem_cons.2 h)
    rw [List.cons_append, itemsFrom, if_neg (Ne.symm hc), ih _ hcs, List.length_cons]
    simp only [Nat.add_assoc, Nat.add_comm 1]

theorem head?_itemsFrom (pos : Nat) (data : List Byte) : (itemsFrom pos data).head?.map Prod.fst = some pos := by
  induction data using comma_induction with
  | last xs hxs => rw [itemsFrom_last pos hxs]; rfl
  | split xs ys hxs ih => rw [itemsFrom_split pos hxs]; rfl

theorem itemsFrom_ne_nil (pos : Nat) (data : List Byte) : itemsFrom pos data ≠ [] := by
  intro h
  have := head?_itemsFrom pos data
  rw [h] at this
  cases this

/-! ## All the items -/

/-- The items joined are the payload. -/
theorem joinItems_itemsFrom (pos : Nat) (data : List Byte) : joinItems ((itemsFrom pos data).map Prod.snd) = data := by
  induction data using comma_induction generalizing pos with
  | last xs hxs => rw [itemsFrom_last pos hxs]; rfl
  | split xs ys hxs ih => 
    rw [itemsFrom_split pos hxs, List.map_cons, joinItems_cons (by simpa using itemsFrom_ne_nil _ _), ih]

/-- Texts without commas are the items of their join. -/
theorem itemsFrom_joinItems (pos : Nat) (hne : ts ≠ []) (h : ∀ t ∈ ts, chComma ∉ t) :
    (itemsFrom pos (joinItems ts)).map Prod.snd = ts := by
  induction ts generalizing pos with
  | nil => contradiction
  | cons t ts ih =>
    obtain ⟨ht, hts⟩ := List.forall_mem_cons.1 h
    cases ts with
    | nil => rw [joinItems, itemsFrom_last pos ht]; rfl
    | cons u us => rw [joinItems_cons (by simp), itemsFrom_split pos ht, List.map_cons, ih _ (by simp) hts]

/-- No item holds a comma, and each stands at its position. -/
theorem mem_itemsFrom {p : Nat × List Byte} (h : p ∈ itemsFrom pos data) :
    chComma ∉ p.2 ∧ (data.drop (p.1 - pos)).take p.2.length = p.2 := by
  induction data using comma_induction generalizing pos with
  | last xs hxs =>
    rw [itemsFrom_last pos hxs, List.mem_singleton] at h
    subst h
    simpa using hxs
  | split xs ys hxs ih =>
    rw [itemsFrom_split pos hxs, List.mem_cons] at h
    rcases h with rfl | h
    · simpa using hxs
    · obtain ⟨hpos, -⟩ := mem_itemsFrom_bounds h
      obtain ⟨hcomma, hbytes⟩ := ih h
      refine ⟨hcomma, ?_⟩
      have hsub : p.1 - pos = (xs.length + 1) + (p.1 - (pos + xs.length + 1)) := by omega
      rw [hsub, ← List.drop_drop, List.drop_append, List.drop_eq_nil_of_le (Nat.le_succ _)]
      simpa using hbytes

theorem length_itemsFrom (pos : Nat) (data : List Byte) : (itemsFrom pos data).length = data.count chComma + 1 := by
  induction data using comma_induction generalizing pos with
  | last xs hxs => rw [itemsFrom_last pos hxs, List.count_eq_zero_of_not_mem hxs]; rfl
  | split xs ys hxs ih =>
    rw [itemsFrom_split pos hxs, List.length_cons, ih, List.count_append, List.count_eq_zero_of_not_mem hxs,
      List.count_cons_self]
    omega

/-- Each item begins behind the comma that ends the one before it. -/
theorem isChain_itemsFrom (pos : Nat) (data : List Byte) :
    (itemsFrom pos data).IsChain (fun p q => q.1 = p.1 + p.2.length + 1) := by
  induction data using comma_induction generalizing pos with
  | last xs hxs => rw [itemsFrom_last pos hxs]; exact List.isChain_singleton _
  | split xs ys hxs ih =>
    rw [itemsFrom_split pos hxs, List.isChain_cons]
    refine ⟨fun q hq => ?_, ih _⟩
    have := head?_itemsFrom (pos + xs.length + 1) ys
    rw [Option.mem_def.1 hq] at this
    exact Option.some.inj this

/-- Settles O54, from the first comma on. -/
theorem itemsSplitAtCommas : Obligations.ItemsSplitAtCommas := by
  intro data
  refine ⟨joinItems_itemsFrom 0 data, fun p hp => mem_itemsFrom hp, length_itemsFrom 0 data, ?_, fun i hi => ?_⟩
  · rw [← List.head?_eq_getElem?]
    exact head?_itemsFrom 0 data
  · exact List.isChain_iff_getElem.1 (isChain_itemsFrom 0 data) i hi

end Sys2Proof.Machine
end

section
/-! The numerals of a field (R180 to R183): its sign, its digit runs, and what ParseInt and ParseFloat make of them. -/

namespace Sys2Proof.Machine

section
variable {neg : Bool} {body ds ip fp rest : List Byte}

/-! ## Signs and digit runs -/

/-- The sign of a field: one '-' or nothing (R180, R182). -/
def signBytes (neg : Bool) : List Byte := if neg then [chMinus] else []

theorem splitSign_signBytes_append (h : neg = false → body.head? ≠ some chMinus) :
    splitSign (signBytes neg ++ body) = (neg, body) := by
  cases neg with
  | true => rfl
  | false =>
    cases body with
    | nil => rfl
    | cons c cs => exact if_neg fun hc => h rfl (congrArg some hc)

theorem digitRun_eq_nil (h : ∀ b ∈ rest.head?, isDigit b = false) : digitRun rest = [] := by
  cases rest with
  | nil => rfl
  | cons c cs => exact List.takeWhile_cons_of_neg (by simpa using h)

theorem digitRun_append (hds : ∀ b ∈ ds, isDigit b = true) (h : ∀ b ∈ rest.head?, isDigit b = false) :
    digitRun (ds ++ rest) = ds := by
  have hrest : rest.takeWhile isDigit = [] := digitRun_eq_nil h
  rw [digitRun, List.takeWhile_append_of_pos hds, hrest, List.append_nil]

theorem fractionRun_eq_nil (h : rest.head? ≠ some chDot) : fractionRun rest = [] := by
  cases rest with
  | nil => rfl
  | cons c cs => exact if_neg fun hc => h (congrArg some hc)

/-- Digits do not begin with a sign. -/
theorem head?_digits_append_ne_minus (hds : ∀ b ∈ ds, isDigit b = true) (h : ds ≠ [] ∨ rest.head? ≠ some chMinus) :
    (ds ++ rest).head? ≠ some chMinus := by
  cases ds with
  | nil => simpa using h
  | cons c cs =>
    have hc : c ≠ chMinus := by
      rintro rfl
      exact absurd (hds chMinus List.mem_cons_self) (by decide)
    simpa using hc

theorem digitsValue_append_singleton (ds : List Byte) (b : Byte) :
    digitsValue (ds ++ [b]) = 10 * digitsValue ds + (b.toNat - 0x30) := by
  rw [digitsValue, List.foldl_concat]
  rfl

/-! ## ParseInt (R180, R181) -/

theorem parseInt_of_digits (k : Nat) (hne : ds ≠ []) (hds : ∀ b ∈ ds, isDigit b = true)
    (h : ∀ b ∈ rest.head?, isDigit b = false) :
    let v : Int := if neg then -(digitsValue ds : Int) else digitsValue ds
    parseInt k (signBytes neg ++ ds ++ rest) =
      if -2 ^ 31 ≤ v ∧ v ≤ 2 ^ 31 - 1 then (BitVec.ofInt 32 v, k) else (Config.freeInt k, k + 1) := by
  rw [List.append_assoc, parseInt, splitSign_signBytes_append fun _ => head?_digits_append_ne_minus hds (.inl hne)]
  simp only [digitRun_append hds h, if_neg hne]

theorem parseInt_of_no_digit (k : Nat) (h : ∀ b ∈ rest.head?, isDigit b = false)
    (hsign : neg = false → rest.head? ≠ some chMinus) : parseInt k (signBytes neg ++ rest) = (0, k) := by
  rw [parseInt, splitSign_signBytes_append hsign]
  simp only [digitRun_eq_nil h, if_pos]

/-- Settles O52, by whether the field has a digit. -/
theorem parseIntField : Obligations.ParseIntField := fun k =>
  ⟨fun _ _ _ hne hds h => parseInt_of_digits k hne hds h, fun _ _ h hsign => parseInt_of_no_digit k h hsign,
   rfl, digitsValue_append_singleton⟩

/-! ## ParseFloat (R182, R183) -/

/-- The sign set on a rounded value (R182). -/
def setSign (neg : Bool) (r : Word × Nat) : Word × Nat := (if neg then r.1 ^^^ 0x80000000 else r.1, r.2)

/-- ParseFloat by the two digit runs of the field behind its sign. -/
theorem parseFloat_of_runs (k : Nat) (hsign : neg = false → body.head? ≠ some chMinus) (hip : digitRun body = ip)
    (hfp : fractionRun (body.drop ip.length) = fp) : parseFloat k (signBytes neg ++ body) =
      if ip = [] ∧ fp = [] then (0, k)
      else setSign neg (roundFloat k (digitsValue ip * 10 ^ fp.length + digitsValue fp) (10 ^ fp.length)) := by
  -- The rounding is a variable below, so that the kernel does not evaluate it.
  obtain ⟨round, hround⟩ : ∃ round, round = roundFloat := ⟨_, rfl⟩
  rw [parseFloat, splitSign_signBytes_append hsign, ← hround]
  simp only [hip, hfp, setSign]

/-- Integer digits, a point, and fraction digits, of which one kind may be missing. -/
theorem parseFloat_of_point (k : Nat) (hip : ∀ b ∈ ip, isDigit b = true) (hfp : ∀ b ∈ fp, isDigit b = true)
    (h : ∀ b ∈ rest.head?, isDigit b = false) : parseFloat k (signBytes neg ++ ip ++ [chDot] ++ fp ++ rest) =
      if ip = [] ∧ fp = [] then (0, k)
      else setSign neg (roundFloat k (digitsValue ip * 10 ^ fp.length + digitsValue fp) (10 ^ fp.length)) := by
  simp only [List.append_assoc, List.singleton_append]
  refine parseFloat_of_runs k (fun _ => head?_digits_append_ne_minus hip (.inr (by simp))) (digitRun_append hip (by simp [isDigit])) ?_
  rw [List.drop_left]
  exact digitRun_append hfp h

/-- A field with no point behind its integer digits, which may be missing. -/
theorem parseFloat_of_no_point (k : Nat) (hip : ∀ b ∈ ip, isDigit b = true) (h : ∀ b ∈ rest.head?, isDigit b = false)
    (hdot : rest.head? ≠ some chDot) (hsign : ip ≠ [] ∨ (neg = false → rest.head? ≠ some chMinus)) :
    parseFloat k (signBytes neg ++ ip ++ rest) =
      if ip = [] then (0, k) else setSign neg (roundFloat k (digitsValue ip) 1) := by
  rw [List.append_assoc, parseFloat_of_runs (fp := []) k
    (fun hneg => head?_digits_append_ne_minus hip (hsign.imp_right (· hneg))) (digitRun_append hip h)
    (by rw [List.drop_left]; exact fractionRun_eq_nil hdot)]
  simp [digitsValue]

end

/-- Settles O53, by whether a point follows the integer digits. -/
theorem parseFloatField : Obligations.ParseFloatField := by
  intro k neg ip fp rest hip hfp h
  refine ⟨fun hne => ?_, fun hne hdot => ?_, fun hnil => ?_, fun hdot hsign => ?_⟩
  · exact (parseFloat_of_point k hip hfp h).trans (if_neg (by simpa using hne))
  · exact (parseFloat_of_no_point k hip h hdot (.inl hne)).trans (if_neg hne)
  · obtain ⟨rfl, rfl⟩ := List.append_eq_nil_iff.1 hnil
    simpa [signBytes] using parseFloat_of_point (neg := neg) k hip hfp h
  · simpa [signBytes] using parseFloat_of_no_point (ip := []) k (by simp) h hdot (.inr hsign)

end Sys2Proof.Machine
end

section
/-! What the encoder writes and the receiver reads (R207, R208, R210 to R215): the texts of integers and of floats, their items, and their
values. -/

namespace Sys2Proof.Machine

/-! ## Decimal text (R210) -/

theorem toNat_digit {m : Nat} (hm : m < 10) : (chZero + BitVec.ofNat 8 m).toNat = 0x30 + m := by
  have hzero : chZero.toNat = 0x30 := rfl
  rw [BitVec.toNat_add, hzero, BitVec.toNat_ofNat]
  omega

theorem isDigit_iff (b : Byte) : isDigit b = true ↔ 0x30 ≤ b.toNat ∧ b.toNat ≤ 0x39 := by
  simp [isDigit, BitVec.le_def]

theorem isDigit_digit {m : Nat} (hm : m < 10) : isDigit (chZero + BitVec.ofNat 8 m) = true := by
  rw [isDigit_iff, toNat_digit hm]
  omega

/-- The text of a natural is one digit, or the text of its tenth and one digit more. -/
theorem dec_induction {motive : Nat → List Byte → Prop}
    (digit : ∀ m, m < 10 → motive m [chZero + BitVec.ofNat 8 m])
    (more : ∀ m, 10 ≤ m → motive (m / 10) (dec (m / 10)) → motive m (dec (m / 10) ++ [chZero + BitVec.ofNat 8 (m % 10)]))
    (m : Nat) : motive m (dec m) := by
  induction m using Nat.strong_induction_on with
  | _ m ih =>
    rw [dec_eq]
    split_ifs with hm
    · exact digit m hm
    · exact more m (by omega) (ih _ (by omega))

theorem dec_ne_nil (m : Nat) : dec m ≠ [] := by
  rw [dec_eq]
  split_ifs <;> simp

theorem isDigit_of_mem_dec {m : Nat} : ∀ b ∈ dec m, isDigit b = true :=
  dec_induction (motive := fun _ ds => ∀ b ∈ ds, isDigit b = true)
    (fun m hm => List.forall_mem_singleton.2 (isDigit_digit hm))
    (fun m _ ih => List.forall_mem_append.2 ⟨ih, List.forall_mem_singleton.2 (isDigit_digit (m.mod_lt (by decide)))⟩) m

theorem digitsValue_dec (m : Nat) : digitsValue (dec m) = m :=
  dec_induction (motive := fun m ds => digitsValue ds = m)
    (fun m hm => by rw [← List.nil_append [_], digitsValue_append_singleton, toNat_digit hm]; simp [digitsValue])
    (fun m _ ih => by rw [digitsValue_append_singleton, ih, toNat_digit (m.mod_lt (by decide))]; omega) m

theorem isDigit_of_mem_threeDigits {m : Nat} (hm : m < 1000) : ∀ b ∈ threeDigits m, isDigit b = true := by
  intro b hb
  simp only [threeDigits, List.mem_cons, List.not_mem_nil, or_false] at hb
  rcases hb with rfl | rfl | rfl <;> exact isDigit_digit (by omega)

theorem digitsValue_threeDigits {m : Nat} (hm : m < 1000) : digitsValue (threeDigits m) = m := by
  simp only [digitsValue, threeDigits, List.foldl_cons, List.foldl_nil]
  rw [toNat_digit (by omega), toNat_digit (by omega), toNat_digit (by omega)]
  omega

theorem length_threeDigits (m : Nat) : (threeDigits m).length = 3 := rfl

/-! ## Integers (R207, R210, R211) -/

/-- The text of an integer is its sign and the digits of its magnitude. -/
theorem fmtInt_eq (v : Word) : fmtInt v = signBytes (decide (v.toInt < 0)) ++ dec v.toInt.natAbs := by
  have hmsb : v.msb = decide (v.toInt < 0) := BitVec.msb_eq_toInt
  have htoInt := BitVec.toInt_eq_toNat_cond v
  rw [fmtInt]
  split_ifs with hmin hneg
  · subst hmin; rfl
  · have habs : v.toInt.natAbs = (-v).toNat := by
      rw [hmsb, decide_eq_true_eq] at hneg
      rw [BitVec.toNat_neg]
      split_ifs at htoInt <;> omega
    rw [← hmsb, hneg, habs]
    rfl
  · have habs : v.toInt.natAbs = v.toNat := by
      rw [hmsb, decide_eq_true_eq] at hneg
      split_ifs at htoInt <;> omega
    rw [← hmsb, Bool.eq_false_iff.2 hneg, habs]
    rfl

theorem parseInt_fmtInt (k : Nat) (v : Word) : parseInt k (fmtInt v) = (v, k) := by
  have h := parseInt_of_digits (neg := decide (v.toInt < 0)) (rest := []) k (dec_ne_nil v.toInt.natAbs) isDigit_of_mem_dec (by simp)
  have hsigned : (if decide (v.toInt < 0) then -(v.toInt.natAbs : Int) else v.toInt.natAbs) = v.toInt := by
    simp only [decide_eq_true_eq]
    split_ifs <;> omega
  have hrange : -2 ^ 31 ≤ v.toInt ∧ v.toInt ≤ 2 ^ 31 - 1 := by
    have := BitVec.le_toInt v
    have := BitVec.toInt_lt (x := v)
    omega
  simpa only [List.append_nil, ← fmtInt_eq, digitsValue_dec, hsigned, if_pos hrange, BitVec.ofInt_toInt] using h

theorem byteClass_of_isDigit {b : Byte} (h : isDigit b = true) : byteClass b = .digit := by
  rw [byteClass_eq, if_pos ((isDigit_iff b).1 h)]

/-! ## Fields parsed one after the other -/

section
variable {p : Nat → List Byte → Word × Nat} {val : Word → Val} {k : Nat} {fs : List (List Byte)}

/-- The fields parsed in order by `p`, each after the draws of those before it (R180, R182). -/
def parseEach (p : Nat → List Byte → Word × Nat) (val : Word → Val) (k : Nat) : List (List Byte) → List Val
  | [] => []
  | f :: fs => val (p k f).1 :: parseEach p val (p k f).2 fs

theorem parseInts_eq (k : Nat) (fs : List (List Byte)) :
    parseInts k fs = (parseEach parseInt .int k fs, drawsAfter parseInt k fs) := by
  induction fs generalizing k with
  | nil => rfl
  | cons f fs ih => simp only [parseInts, ih, parseEach, drawsAfter, List.foldl_cons]

theorem parseFloats_eq (k : Nat) (fs : List (List Byte)) :
    parseFloats k fs = (parseEach parseFloat .float k fs, drawsAfter parseFloat k fs) := by
  induction fs generalizing k with
  | nil => rfl
  | cons f fs ih => simp only [parseFloats, ih, parseEach, drawsAfter, List.foldl_cons]

theorem length_parseEach : (parseEach p val k fs).length = fs.length := by
  induction fs generalizing k with
  | nil => rfl
  | cons f fs ih => rw [parseEach, List.length_cons, ih, List.length_cons]

theorem getElem?_parseEach {i : Nat} {f : List Byte} (h : fs[i]? = some f) :
    (parseEach p val k fs)[i]? = some (val (p (drawsAfter p k (fs.take i)) f).1) := by
  induction fs generalizing k i with
  | nil => cases h
  | cons g fs ih =>
    cases i with
    | zero => cases h; rfl
    | succ i => exact ih (k := (p k g).2) h

/-- Fields that draw no free value. -/
theorem parseEach_of_no_draw (h : ∀ f ∈ fs, (p k f).2 = k) :
    parseEach p val k fs = fs.map (fun f => val (p k f).1) ∧ drawsAfter p k fs = k := by
  induction fs with
  | nil => exact ⟨rfl, rfl⟩
  | cons f fs ih =>
    obtain ⟨hf, hfs⟩ := List.forall_mem_cons.1 h
    obtain ⟨hvals, hdraws⟩ := ih hfs
    rw [parseEach, drawsAfter, List.foldl_cons, hf, hvals]
    exact ⟨rfl, hdraws⟩

end

/-! ## Texts joined (R202, R175, R178) -/

section
variable {ts : List (List Byte)}

theorem mem_joinItems_of_mem {t : List Byte} {b : Byte} (ht : t ∈ ts) (hb : b ∈ t) : b ∈ joinItems ts := by
  induction ts with
  | nil => cases ht
  | cons u us ih =>
    by_cases hus : us = []
    · subst hus
      obtain rfl := List.mem_singleton.1 ht
      exact hb
    · rw [joinItems_cons hus]
      rcases List.mem_cons.1 ht with rfl | ht
      · exact List.mem_append_left _ hb
      · exact List.mem_append_right _ (List.mem_cons_of_mem _ (ih ht))

/-- Joining texts adds bytes of one class only, the commas. -/
theorem exists_byteClass_joinItems {c : ByteClass} (hc : c ≠ .comma) :
    (∃ b ∈ joinItems ts, byteClass b = c) ↔ ∃ t ∈ ts, ∃ b ∈ t, byteClass b = c := by
  constructor
  · rintro ⟨b, hb, rfl⟩
    obtain rfl | ⟨t, ht, hbt⟩ := mem_joinItems hb
    · exact absurd rfl hc
    · exact ⟨t, ht, b, hbt, rfl⟩
  · rintro ⟨t, ht, b, hb, hbc⟩
    exact ⟨b, mem_joinItems_of_mem ht hb, hbc⟩

theorem classify_joinItems : classify (joinItems ts) =
    if ∃ t ∈ ts, ∃ b ∈ t, byteClass b = .other then .string
    else if ∃ t ∈ ts, ∃ b ∈ t, byteClass b = .dot then .float else .int := by
  rw [classify_eq]
  exact if_congr (exists_byteClass_joinItems (by decide)) rfl
    (if_congr (exists_byteClass_joinItems (by decide)) rfl rfl)

/-- Texts that hold no comma and draw no free value are read back one by one. -/
theorem parseEach_items_joinItems {p : Nat → List Byte → Word × Nat} {val : Word → Val} {k : Nat}
    {vals : List Word} {fmt : Word → List Byte} (hne : vals ≠ []) (hcomma : ∀ x ∈ vals, chComma ∉ fmt x)
    (hdraw : ∀ x ∈ vals, (p k (fmt x)).2 = k) :
    parseEach p val k ((items (joinItems (vals.map fmt))).map Prod.snd) = vals.map (fun x => val (p k (fmt x)).1) ∧
      drawsAfter p k ((items (joinItems (vals.map fmt))).map Prod.snd) = k := by
  rw [items, itemsFrom_joinItems 0 (by simpa using hne) (List.forall_mem_map.2 hcomma)]
  obtain ⟨hvals, hdraws⟩ := parseEach_of_no_draw (val := val) (List.forall_mem_map.2 hdraw)
  exact ⟨by rw [hvals, List.map_map]; rfl, hdraws⟩

end

theorem byteClass_of_mem_signBytes {neg : Bool} {b : Byte} (h : b ∈ signBytes neg) : byteClass b = .minus := by
  cases neg with
  | false => cases h
  | true =>
    obtain rfl := List.mem_singleton.1 h
    rfl

theorem byteClass_of_mem_fmtInt {v : Word} {b : Byte} (h : b ∈ fmtInt v) : byteClass b = .minus ∨ byteClass b = .digit := by
  rw [fmtInt_eq, List.mem_append] at h
  exact h.imp byteClass_of_mem_signBytes fun h => byteClass_of_isDigit (isDigit_of_mem_dec b h)

/-- Settles O48: each text is digits behind a sign, and the join of the texts splits into them. -/
theorem integerTextRoundTrip : Obligations.IntegerTextRoundTrip := by
  intro vals k hne
  have hclass : ∀ c, c ≠ .minus → c ≠ .digit → ¬ ∃ t ∈ vals.map fmtInt, ∃ b ∈ t, byteClass b = c := by
    rintro c hminus hdigit ⟨t, ht, b, hb, rfl⟩
    obtain ⟨v, -, rfl⟩ := List.mem_map.1 ht
    exact (byteClass_of_mem_fmtInt hb).elim hminus hdigit
  constructor
  · rw [classify_joinItems, if_neg (hclass _ (by decide) (by decide)), if_neg (hclass _ (by decide) (by decide))]
  · obtain ⟨hvals, hdraws⟩ := parseEach_items_joinItems (p := parseInt) (val := .int) (k := k) (fmt := fmtInt) hne
      (fun v hv hmem => hclass .comma (by decide) (by decide) ⟨_, List.mem_map_of_mem hv, _, hmem, rfl⟩)
      (fun v _ => by rw [parseInt_fmtInt])
    rw [parseInts_eq, hvals, hdraws]
    simp only [parseInt_fmtInt]

/-! ## Floats (R208, R212, R213) -/

theorem floatUnits_eq_zero_iff (x : Word) : floatUnits x = 0 ↔ x.toNat % 2 ^ 31 = 0 := by
  rw [floatUnits, floatExp_eq, floatFrac_eq]
  split_ifs with h
  · omega
  · simp only [Nat.mul_eq_zero, Nat.pow_eq_zero]
    omega

theorem floatNeg_iff (x : Word) : floatNeg x = true ↔ x.msb = true ∧ x ≠ 0x80000000 := by
  rw [floatNeg, Bool.and_eq_true, bne_iff_ne, Ne, floatUnits_eq_zero_iff]
  refine and_congr_right fun hmsb => not_congr ?_
  rw [BitVec.msb_eq_decide, decide_eq_true_eq] at hmsb
  rw [← BitVec.toNat_inj, show (0x80000000 : Word).toNat = 2 ^ 31 from rfl]
  omega

theorem floatParts_snd_lt (x : Word) : (floatParts x).2 < 1000 := by
  simp only [floatParts]
  split_ifs
  · exact Nat.zero_lt_succ _
  · simp only
    omega

/-- The carry of a full thousand into the integer part does not change the number written. -/
theorem floatParts_thousandths (x : Word) : 1000 * (floatParts x).1 + (floatParts x).2 =
    1000 * (floatUnits x / 2 ^ 149) + (2000 * (floatUnits x % 2 ^ 149) + 2 ^ 149) / 2 ^ 150 := by
  simp only [floatParts]
  split_ifs
  · omega
  · rfl

/-- The thousandths written are nearest to the magnitude, a tie going up (R212). -/
theorem floatParts_nearest (x : Word) :
    let err : Int := ((1000 * floatUnits x : Nat) : Int) -
      (((1000 * (floatParts x).1 + (floatParts x).2) * 2 ^ 149 : Nat) : Int)
    2 * err.natAbs ≤ 2 ^ 149 ∧ (2 * err.natAbs = 2 ^ 149 → err < 0) := by
  rw [floatParts_thousandths]
  simp only
  omega

theorem fmtFloat_eq (x : Word) : fmtFloat x =
    signBytes (floatNeg x) ++ dec (floatParts x).1 ++ [chDot] ++ threeDigits (floatParts x).2 := by
  -- The parts are a variable below, so that the kernel does not evaluate them.
  obtain ⟨text, htext⟩ : ∃ text, text = fmtFloat := ⟨_, rfl⟩
  obtain ⟨parts, hparts⟩ : ∃ parts, parts = floatParts := ⟨_, rfl⟩
  rw [← htext, ← hparts]
  delta fmtFloat at htext
  rw [← hparts] at htext
  simp only [htext, signBytes]

/-- The text of a float parses back, drawing no free value, to the number nearest to what it spells (R215). -/
theorem parseFloat_fmtFloat {x : Word} (hx : floatInRange x = true) (k : Nat) : parseFloat k (fmtFloat x) =
    (if floatNeg x then BitVec.ofNat 32 (roundBits (1000 * (floatParts x).1 + (floatParts x).2) 1000) ^^^ 0x80000000
     else BitVec.ofNat 32 (roundBits (1000 * (floatParts x).1 + (floatParts x).2) 1000), k) := by
  have hm := floatParts_snd_lt x
  have hround : roundFloat k (1000 * (floatParts x).1 + (floatParts x).2) 1000 =
      (BitVec.ofNat 32 (roundBits (1000 * (floatParts x).1 + (floatParts x).2) 1000), k) := by
    rw [floatInRange, Bool.and_eq_true, decide_eq_true_eq] at hx
    exact (roundFloat_eq k _ (by decide)).trans (if_pos (by omega))
  have h := parseFloat_of_point (neg := floatNeg x) (rest := []) k (isDigit_of_mem_dec (m := (floatParts x).1))
    (isDigit_of_mem_threeDigits hm) (by simp)
  rw [if_neg fun hnil => dec_ne_nil _ hnil.1, digitsValue_dec, digitsValue_threeDigits hm, length_threeDigits,
    show 10 ^ 3 = 1000 from rfl, Nat.mul_comm, hround, List.append_nil, ← fmtFloat_eq] at h
  exact h

theorem byteClass_of_mem_fmtFloat {x : Word} {b : Byte} (h : b ∈ fmtFloat x) :
    byteClass b = .minus ∨ byteClass b = .digit ∨ byteClass b = .dot := by
  rw [fmtFloat_eq, List.mem_append, List.mem_append, List.mem_append, List.mem_singleton] at h
  rcases h with ((h | h) | rfl) | h
  · exact .inl (byteClass_of_mem_signBytes h)
  · exact .inr (.inl (byteClass_of_isDigit (isDigit_of_mem_dec b h)))
  · exact .inr (.inr rfl)
  · exact .inr (.inl (byteClass_of_isDigit (isDigit_of_mem_threeDigits (floatParts_snd_lt x) b h)))

/-- Floats that an E.FLOAT writes classify as Float at the receiver and parse back one by one (R208, R215). -/
theorem floatTexts_roundTrip {vals : List Word} (k : Nat) (hne : vals ≠ []) (hrange : ∀ x ∈ vals, floatInRange x = true) :
    classify (joinItems (vals.map fmtFloat)) = .float ∧
    parseFloats k ((items (joinItems (vals.map fmtFloat))).map Prod.snd) =
      (vals.map (fun x => Val.float (parseFloat k (fmtFloat x)).1), k) := by
  constructor
  · obtain ⟨x, hx⟩ := List.exists_mem_of_ne_nil vals hne
    have hdot : ∃ t ∈ vals.map fmtFloat, ∃ b ∈ t, byteClass b = .dot :=
      ⟨_, List.mem_map_of_mem hx, chDot, by simp [fmtFloat_eq], rfl⟩
    have hother : ¬ ∃ t ∈ vals.map fmtFloat, ∃ b ∈ t, byteClass b = .other := by
      rintro ⟨t, ht, b, hb, hc⟩
      obtain ⟨y, -, rfl⟩ := List.mem_map.1 ht
      simpa [hc] using byteClass_of_mem_fmtFloat hb
    rw [classify_joinItems, if_neg hother, if_pos hdot]
  · obtain ⟨hvals, hdraws⟩ := parseEach_items_joinItems (p := parseFloat) (val := .float) (k := k) (fmt := fmtFloat) hne
      (fun x _ hmem => absurd (byteClass_of_mem_fmtFloat hmem) (by decide)) (fun x hx => by rw [parseFloat_fmtFloat (hrange x hx)])
    rw [parseFloats_eq, hvals, hdraws]

/-- Settles O50: the parts of the text, and the digit runs at the receiver. -/
theorem floatTextPrecision : Obligations.FloatTextPrecision :=
  ⟨floatNeg_iff,
   fun x _ => ⟨(floatParts x).1, (floatParts x).2, floatParts_snd_lt x, by rw [fmtFloat_eq, signBytes], digitsValue_dec _,
     digitsValue_threeDigits (floatParts_snd_lt x), floatParts_nearest x, fun hx => parseFloat_fmtFloat hx⟩,
   fun _ k hne hrange => floatTexts_roundTrip k hne hrange⟩

end Sys2Proof.Machine
end

section
/-! D.POLL (R170 to R188): the route matched, and what one view popped does, by its route and its data. -/

namespace Sys2Proof.Machine

/-! ## The route (R173) -/

theorem matchRouteFrom_eq_some_iff {i j : Nat} {r : Route} {routes : List Route} {path : List Byte} :
    matchRouteFrom i routes path = some (j, r) ↔ ∃ k, j = i + k ∧ routes[k]? = some r ∧ r.path = path ∧
      ∀ l < k, ∀ r', routes[l]? = some r' → r'.path ≠ path := by
  induction routes generalizing i with
  | nil => simp [matchRouteFrom]
  | cons r₀ rs ih =>
    by_cases hp : r₀.path = path
    · rw [matchRouteFrom, if_pos hp]
      constructor
      · rintro ⟨⟩
        exact ⟨0, rfl, rfl, hp, nofun⟩
      · rintro ⟨k, rfl, hk, -, hfirst⟩
        cases k with
        | zero => cases hk; rfl
        | succ k => exact absurd hp (hfirst 0 k.succ_pos r₀ rfl)
    · rw [matchRouteFrom, if_neg hp, ih]
      constructor
      · rintro ⟨k, rfl, hk, hpath, hfirst⟩
        refine ⟨k + 1, by omega, hk, hpath, fun l hl r' hr' => ?_⟩
        cases l with
        | zero => cases hr'; exact hp
        | succ l => exact hfirst l (Nat.lt_of_succ_lt_succ hl) r' hr'
      · rintro ⟨k, rfl, hk, hpath, hfirst⟩
        cases k with
        | zero => cases hk; exact absurd hpath hp
        | succ k => exact ⟨k, by omega, hk, hpath, fun l hl => hfirst (l + 1) (Nat.succ_lt_succ hl)⟩

theorem matchRouteFrom_eq_none_iff {i : Nat} {routes : List Route} {path : List Byte} :
    matchRouteFrom i routes path = none ↔ ∀ r ∈ routes, r.path ≠ path := by
  induction routes generalizing i with
  | nil => simp [matchRouteFrom]
  | cons r₀ rs ih =>
    rw [matchRouteFrom, List.forall_mem_cons, ← ih (i := i + 1)]
    split_ifs with hp <;> simp [hp]

/-- Settles O44, by induction on the table. -/
theorem matchRouteFirst : Obligations.MatchRouteFirst := by
  intro routes path
  refine ⟨fun i r => ?_, matchRouteFrom_eq_none_iff⟩
  rw [matchRoute, matchRouteFrom_eq_some_iff]
  simp

section
variable {s : State} {v : View} {path data : List Byte} {r : Nat × Route}

/-! ## The parts of D.POLL, as one equation each -/

/-- Only the scratch buffer and its size bear on a slice. -/
theorem State.readSlice_congr {t : State} (hcfg : t.cfg = s.cfg) (hscr : t.scr = s.scr) (off n : Nat) :
    t.readSlice off n = s.readSlice off n := by
  induction n generalizing off with
  | zero => rfl
  | succ n ih => simp only [State.readSlice, State.readScr, hcfg, hscr, ih]

theorem State.readSlice_popFq (s : State) (off n : Nat) :
    ({ s with fq := s.fq.popped s.cfg.fq } : State).readSlice off n = s.readSlice off n :=
  State.readSlice_congr (s := s) (t := { s with fq := s.fq.popped s.cfg.fq }) rfl rfl off n

theorem exec_dPoll_of_empty (hidle : s.idle) (he : s.fq.prod = s.fq.cons) :
    exec .dPoll s = .next ((s.raise (.popEmpty .fq)).done true) := by
  have hpop : s.popFq = .ok (s.raise (.popEmpty .fq), none) := by
    rw [State.popFq, Queue.pop_of_empty (g := s.cfg.fq) he]
  exact (onIdle_of_idle hidle _).trans (by rw [hpop])

/-- A D.POLL that pops a view dispatches it, unless it is stale (R172). -/
theorem exec_dPoll_of_read (hidle : s.idle) (he : s.fq.prod ≠ s.fq.cons) (hc : s.fq.cons < s.cfg.cFq)
    (hv : Memory.read s.fq.store s.fq.cons = some v) : exec .dPoll s =
      if v.gen = s.scrGen then ({ s with fq := s.fq.popped s.cfg.fq } : State).dispatchView v else .fault .staleView := by
  have hpop : s.popFq = .ok ({ s with fq := s.fq.popped s.cfg.fq }, some v) := by
    rw [State.popFq, Queue.pop_of_read (g := s.cfg.fq) he hc hv]
  exact (onIdle_of_idle hidle _).trans (by rw [hpop])

theorem State.dispatchView_of_miss (hpath : s.readSlice v.pathOff v.pathLen = .ok path)
    (hr : matchRoute s.cfg.routes path = none) : s.dispatchView v = .next ((s.raise .routeMiss).done true) := by
  simp only [State.dispatchView, hpath, hr]

theorem State.dispatchView_of_empty (hpath : s.readSlice v.pathOff v.pathLen = .ok path)
    (hr : matchRoute s.cfg.routes path = some r) (hlen : v.dataLen = 0) :
    s.dispatchView v = .next ((s.callHandler r .none []).done true) := by
  simp only [State.dispatchView, hpath, hr, if_pos hlen]

theorem State.dispatchView_of_data (hpath : s.readSlice v.pathOff v.pathLen = .ok path)
    (hr : matchRoute s.cfg.routes path = some r) (hlen : v.dataLen ≠ 0)
    (hdata : s.readSlice v.dataOff v.dataLen = .ok data) : s.dispatchView v = s.deliver v r data := by
  simp only [State.dispatchView, hpath, hr, if_neg hlen, hdata]

theorem State.deliver_of_mismatch (ht : classify data ≠ r.2.expected) : s.deliver v r data =
    .next ((({ s with scan := Scan.start } : State).raise (.typeMismatch (classify data) r.2.expected)).done true) := by
  rw [State.deliver, State.scanData_eq]
  simp only [if_neg ht]

/-- What payload values are parsed from: the scan cleared and the truncation noted (R175, R179). -/
def State.noted (s : State) (n : Nat) : State :=
  { s with scan := Scan.start, events := s.events ++ (if s.cfg.maxItems < n then [.itemsTruncated n] else []) }

theorem State.noteTruncation_start (s : State) (n : Nat) :
    ({ s with scan := Scan.start } : State).noteTruncation n = s.noted n := by
  simp only [State.noteTruncation, State.noted]
  split_ifs
  · rfl
  · rw [List.append_nil]

/-- The one call of a D.POLL, before its completion (R186). -/
theorem State.callHandler_done (s : State) (r : Nat × Route) (t : PType) (vals : List Val) : (s.callHandler r t vals).done true =
    { s with outs := s.outs ++ [.call ⟨r.1, r.2.handler, t, vals.length, vals⟩, .cmdDone true] } := by
  simp [State.callHandler, State.done, State.emitOut]

theorem State.deliver_of_match {u : State} {vals : List Val} (ht : classify data = r.2.expected)
    (hvals : (s.noted (items data).length).payloadVals v (classify data) data = .ok (vals, u)) :
    s.deliver v r data = .next ((u.callHandler r (classify data) vals).done true) := by
  rw [State.deliver, State.scanData_eq]
  simp only [if_pos ht, State.noteTruncation_start, hvals]

end

/-- Settles O55: the pop that finds nothing, and the test of the generation. -/
theorem dPollEmptyOrStale : Obligations.DPollEmptyOrStale := fun _ hidle =>
  ⟨fun he => exec_dPoll_of_empty hidle he,
   fun _ he hc hv hgen => (exec_dPoll_of_read hidle he hc hv).trans (if_neg hgen)⟩

/-- Settles O56: the route that is missing, and the type that is not the route's. -/
theorem dPollDrops : Obligations.DPollDrops := by
  intro s v path hidle he hc hv hgen hpath
  rw [exec_dPoll_of_read hidle he hc hv, if_pos hgen]
  rw [← State.readSlice_popFq] at hpath
  constructor
  · intro hr
    rw [State.dispatchView_of_miss hpath hr]
    rfl
  · intro r data hr hlen hdata ht
    rw [← State.readSlice_popFq] at hdata
    rw [State.dispatchView_of_data hpath hr hlen hdata, State.deliver_of_mismatch ht]
    rfl

/-! ## Numbers (R179, R180, R182) -/

section
variable {s : State} {v : View} {r : Nat × Route} {data : List Byte} {p : Nat → List Byte → Word × Nat} {val : Word → Val}

/-- The fields of a payload that are parsed: the first K (R179). -/
def State.fields (s : State) (data : List Byte) : List (List Byte) := ((items data).take s.cfg.maxItems).map Prod.snd

theorem State.length_fields (s : State) (data : List Byte) :
    (s.fields data).length = min (items data).length s.cfg.maxItems := by
  rw [State.fields, List.length_map, List.length_take, Nat.min_comm]

theorem State.payloadVals_int (s : State) (v : View) (data : List Byte) : s.payloadVals v .int data =
    .ok (parseEach parseInt .int s.draws (s.fields data), { s with draws := drawsAfter parseInt s.draws (s.fields data) }) := by
  simp only [State.payloadVals, parseInts_eq, State.fields]

theorem State.payloadVals_float (s : State) (v : View) (data : List Byte) : s.payloadVals v .float data =
    .ok (parseEach parseFloat .float s.draws (s.fields data),
      { s with draws := drawsAfter parseFloat s.draws (s.fields data) }) := by
  simp only [State.payloadVals, parseFloats_eq, State.fields]

/-- Data of the expected type whose fields are parsed one after the other by `p` (R180, R182, R186). -/
theorem State.deliver_numbers (ht : classify data = r.2.expected)
    (hvals : ∀ u : State, u.payloadVals v (classify data) data =
      .ok (parseEach p val u.draws (u.fields data), { u with draws := drawsAfter p u.draws (u.fields data) })) :
    s.deliver v r data = .next { s.noted (items data).length with
      draws := drawsAfter p s.draws (s.fields data),
      outs := s.outs ++ [.call ⟨r.1, r.2.handler, classify data, min (items data).length s.cfg.maxItems,
        parseEach p val s.draws (s.fields data)⟩, .cmdDone true] } := by
  rw [State.deliver_of_match ht (hvals _), State.callHandler_done, length_parseEach, State.length_fields]
  rfl

end

/-- Settles O57: the fields are parsed one after the other, at most K of them. -/
theorem dPollCallsNoneAndNumbers : Obligations.DPollCallsNoneAndNumbers := by
  refine ⟨fun k fs => ?_, fun s v path r hidle he hc hv hgen hpath hr => ?_⟩
  · rw [parseInts_eq, parseFloats_eq]
    exact ⟨length_parseEach, rfl, length_parseEach, rfl, fun i f hf => ⟨getElem?_parseEach hf, getElem?_parseEach hf⟩⟩
  · rw [exec_dPoll_of_read hidle he hc hv, if_pos hgen]
    rw [← State.readSlice_popFq] at hpath
    refine ⟨fun hlen => ?_, fun data hlen hdata ht => ?_⟩
    · rw [State.dispatchView_of_empty hpath hr hlen, State.callHandler_done]
      rfl
    · rw [← State.readSlice_popFq] at hdata
      rw [State.dispatchView_of_data hpath hr hlen hdata]
      refine ⟨fun hint => ?_, fun hfloat => ?_⟩
      · rw [State.deliver_numbers ht fun u => hint ▸ u.payloadVals_int v data, hint, parseInts_eq]
        rfl
      · rw [State.deliver_numbers ht fun u => hfloat ▸ u.payloadVals_float v data, hfloat, parseFloats_eq]
        rfl

/-! ## Strings (R184, R186) -/

section
variable {s : State} {v : View} {r : Nat × Route} {data : List Byte} {off : Nat}

/-- An item's bytes are still read after the split, which writes the commas alone (R184). -/
theorem State.readSlice_splitCommas {n : Nat} {p : Nat × List Byte} (hdata : s.readSlice off n = .ok data) (hp : p ∈ items data) :
    ({ s with scr := splitCommas off data s.scr } : State).readSlice (off + p.1) p.2.length = .ok p.2 := by
  obtain ⟨-, hread⟩ := (State.readSlice_ok_iff _ _ _ _).1 hdata
  obtain ⟨hcomma, hbytes⟩ := mem_itemsFrom hp
  refine (State.readSlice_ok_iff _ _ _ _).2 ⟨rfl, fun i hi => ?_⟩
  have hbyte : data[p.1 + i]? = some p.2[i] := by
    have := congrArg (·[i]?) hbytes
    simpa [List.getElem?_take_of_lt hi, hi] using this
  obtain ⟨hlt, heq⟩ := List.getElem?_eq_some_iff.1 hbyte
  obtain ⟨hsize, hscr⟩ := (State.readScr_ok_iff _ _ _).1 (hread _ hlt)
  refine (State.readScr_ok_iff _ _ _).2 ⟨by rwa [Nat.add_assoc], ?_⟩
  rw [splitCommas_read, if_neg, Nat.add_assoc, hscr, heq]
  rintro ⟨-, h⟩
  rw [Nat.add_assoc, Nat.add_sub_cancel_left, hbyte, Option.some_inj] at h
  exact hcomma (h ▸ List.getElem_mem hi)

theorem sliceVals_eq {its : List (Nat × List Byte)} (h : ∀ p ∈ its, s.readSlice (off + p.1) p.2.length = .ok p.2) :
    sliceVals s off its = .ok (its.map (fun p => .str (off + p.1) p.2.length p.2)) := by
  induction its with
  | nil => rfl
  | cons p its ih =>
    obtain ⟨hp, hits⟩ := List.forall_mem_cons.1 h
    rw [sliceVals, hp]
    simp only [ih hits, List.map_cons]

/-- A String payload is split in place, and its first K items are slices with their bytes (R179, R184, R186). -/
theorem State.payloadVals_string (hdata : s.readSlice v.dataOff v.dataLen = .ok data) : s.payloadVals v .string data =
    .ok (((items data).take s.cfg.maxItems).map (fun p => .str (v.dataOff + p.1) p.2.length p.2),
      { s with scr := splitCommas v.dataOff data s.scr }) := by
  simp only [State.payloadVals]
  rw [sliceVals_eq fun p hp => State.readSlice_splitCommas hdata (List.mem_of_mem_take hp)]

theorem State.deliver_string (hdata : s.readSlice v.dataOff v.dataLen = .ok data) (hstring : classify data = .string)
    (hexp : r.2.expected = .string) : s.deliver v r data = .next { s.noted (items data).length with
      scr := splitCommas v.dataOff data s.scr,
      outs := s.outs ++ [.call ⟨r.1, r.2.handler, .string, min (items data).length s.cfg.maxItems,
        ((items data).take s.cfg.maxItems).map (fun p => .str (v.dataOff + p.1) p.2.length p.2)⟩, .cmdDone true] } := by
  have hnoted : (s.noted (items data).length).readSlice v.dataOff v.dataLen = .ok data :=
    (State.readSlice_congr (s := s) (t := s.noted _) rfl rfl _ _).trans hdata
  rw [State.deliver_of_match (hstring.trans hexp.symm) (hstring ▸ State.payloadVals_string hnoted), hstring,
    State.callHandler_done, List.length_map, List.length_take, Nat.min_comm]
  rfl

end

/-- Settles O58: the split leaves the items' bytes as they were. -/
theorem dPollCallsStrings : Obligations.DPollCallsStrings := by
  intro s v path data r hidle he hc hv hgen hpath hr hlen hdata hstring hexp
  rw [← State.readSlice_popFq] at hpath hdata
  rw [exec_dPoll_of_read hidle he hc hv, if_pos hgen, State.dispatchView_of_data hpath hr hlen hdata,
    State.deliver_string hdata hstring hexp]
  exact ⟨_, rfl, rfl, splitCommas_read v.dataOff data s.scr⟩

end Sys2Proof.Machine
end

section
/-! What the encoder writes (R202, R210, R211): the joined items and their number of bytes, and the first digit and the length of a
decimal text. -/

namespace Sys2Proof.Machine

/-! ## Texts joined (R202) -/

theorem joinItems_eq_intercalate (ts : List (List Byte)) : joinItems ts = List.intercalate [chComma] ts := by
  induction ts with
  | nil => rfl
  | cons t us ih =>
    cases us with
    | nil => exact List.intercalate_singleton.symm
    | cons u us => rw [joinItems_cons (List.cons_ne_nil u us), ih, List.intercalate_cons_cons, List.append_assoc]; rfl

/-- One comma stands between each two texts (R202). -/
theorem length_joinItems (ts : List (List Byte)) :
    (joinItems ts).length = (ts.map List.length).sum + (ts.length - 1) := by
  induction ts with
  | nil => rfl
  | cons t us ih =>
    cases us with
    | nil => simp [joinItems]
    | cons u us =>
      rw [joinItems_cons (List.cons_ne_nil u us), List.length_append, List.length_cons, ih]
      simp only [List.map_cons, List.sum_cons, List.length_cons]
      omega

/-- Settles O47: the seven fixed bytes, and the texts between them. -/
theorem frameBytesShape : Obligations.FrameBytesShape := by
  intro path texts
  constructor
  · rw [frameBytes, joinItems_eq_intercalate]
  · simp only [frameBytes, List.length_append, length_joinItems, List.length_cons, List.length_nil]
    omega

/-! ## The first digit and the number of digits (R210) -/

/-- The text of a natural other than 0 begins with its leading digit, which is not '0'. -/
theorem head?_dec_ne {m : Nat} : m ≠ 0 → (dec m).head? ≠ some chZero :=
  dec_induction (motive := fun m ds => m ≠ 0 → ds.head? ≠ some chZero)
    (fun m hm hne h => by
      have hbyte : chZero + BitVec.ofNat 8 m = chZero := Option.some.inj h
      have hval := toNat_digit hm
      rw [hbyte] at hval
      exact hne (Nat.add_left_cancel hval).symm)
    (fun m hm ih _ => by
      rw [List.head?_append_of_ne_nil _ (dec_ne_nil _)]
      exact ih (by omega)) m

theorem dec_no_leading_zero (m : Nat) : dec m = [chZero] ∨ (dec m).head? ≠ some chZero := by
  rcases Nat.eq_zero_or_pos m with rfl | hm
  · exact .inl rfl
  · exact .inr (head?_dec_ne hm.ne')

theorem length_dec_le {m : Nat} : ∀ k, m < 10 ^ (k + 1) → (dec m).length ≤ k + 1 :=
  dec_induction (motive := fun m ds => ∀ k, m < 10 ^ (k + 1) → ds.length ≤ k + 1)
    (fun _ _ k _ => Nat.le_add_left 1 k)
    (fun m hm ih k hk => by
      cases k with
      | zero => omega
      | succ k =>
        have hlen := ih k (by rw [Nat.pow_succ] at hk; omega)
        rw [List.length_append, List.length_singleton]
        omega) m

theorem length_signBytes_le (neg : Bool) : (signBytes neg).length ≤ 1 := by
  cases neg <;> decide

/-- A sign and ten digits: the magnitude of a 32-bit integer is at most 2^31 (R210). -/
theorem length_fmtInt_le (v : Word) : (fmtInt v).length ≤ 11 := by
  have habs : v.toInt.natAbs < 10 ^ (9 + 1) := by
    have := BitVec.le_toInt v
    have := BitVec.toInt_lt (x := v)
    omega
  have hsign := length_signBytes_le (decide (v.toInt < 0))
  have hdigits := length_dec_le 9 habs
  rw [fmtInt_eq, List.length_append]
  omega

/-- Settles O49: the digits are those of the magnitude. -/
theorem integerText : Obligations.IntegerText := by
  refine ⟨fun v => ⟨dec v.toInt.natAbs, ?_, dec_ne_nil _, fun b hb => (isDigit_iff b).1 (isDigit_of_mem_dec b hb),
    digitsValue_dec _, dec_no_leading_zero _, length_fmtInt_le v⟩, by decide⟩
  rw [fmtInt_eq, signBytes]
  simp only [decide_eq_true_eq]

end Sys2Proof.Machine
end

section
/-! The encoder's commands and its running operation, and the notifier's slot (R201 to R209, R213, R220, R222). -/

namespace Sys2Proof.Machine

section
variable {s : State} {n : Nat} {path : List Byte} {texts : List (List Byte)}

/-! ## The commands -/

theorem acceptFrame_of_le (hn : n ≤ s.cfg.maxItems) :
    acceptFrame s n path texts = .next (s.startFrame (frameBytes path texts)) := if_pos hn

/-- More than K values are refused (R201, U17). -/
theorem acceptFrame_of_gt (hn : s.cfg.maxItems < n) : acceptFrame s n path texts = .refused .tooManyValues :=
  if_neg (Nat.not_le.2 hn)

theorem exec_eFloat_of_inRange {vals : List Word} (hidle : s.idle) (hvals : ∀ x ∈ vals, floatInRange x = true) :
    exec (.eFloat path vals) s = acceptFrame s vals.length path (vals.map fmtFloat) :=
  (onIdle_of_idle hidle _).trans (if_pos (List.all_eq_true.2 hvals))

/-- A value outside the range is refused whatever the number of values (R213, U7; log entry 13). -/
theorem exec_eFloat_of_outOfRange {vals : List Word} (hidle : s.idle) (hvals : ∃ x ∈ vals, floatInRange x = false) :
    exec (.eFloat path vals) s = .refused .floatRange := by
  obtain ⟨x, hx, hrange⟩ := hvals
  refine (onIdle_of_idle hidle _).trans (if_neg fun hall => ?_)
  rw [List.all_eq_true.1 hall x hx] at hrange
  cases hrange

/-- A string's text is the string (R209, R214). -/
theorem exec_eStr_of_idle {strs : List (List Byte)} (hidle : s.idle) :
    exec (.eStr path strs) s = acceptFrame s strs.length path strs := by
  have htexts : strs.map fmtStr = strs := List.map_id strs
  exact (onIdle_of_idle hidle _).trans (by rw [htexts])

end

/-- Settles O42: the test of the port, then the slot. -/
theorem nSetWritesSlot : Obligations.NSetWritesSlot := fun _ _ =>
  ⟨fun hidle => onIdle_of_idle hidle _, fun hrem => onIdle_of_running (.inr hrem) _⟩

/-- Settles O43, by the number of values. -/
theorem encoderOperationsStart : Obligations.EncoderOperationsStart := fun _ _ hidle =>
  ⟨(onIdle_of_idle hidle _).trans (acceptFrame_of_le (Nat.zero_le _)),
   fun _ => ⟨fun hn => (onIdle_of_idle hidle _).trans (acceptFrame_of_le hn),
    fun hn => (onIdle_of_idle hidle _).trans (acceptFrame_of_gt hn),
    fun hvals hn => (exec_eFloat_of_inRange hidle hvals).trans (acceptFrame_of_le hn),
    fun hvals hn => (exec_eFloat_of_inRange hidle hvals).trans (acceptFrame_of_gt hn),
    fun hvals => exec_eFloat_of_outOfRange hidle hvals⟩,
   fun _ => ⟨fun hn => (exec_eStr_of_idle hidle).trans (acceptFrame_of_le hn),
    fun hn => (exec_eStr_of_idle hidle).trans (acceptFrame_of_gt hn)⟩⟩

/-! ## One byte (R204) -/

section
variable {s : State} {rest : List Turn} {b : Byte} {bs : List Byte}

theorem State.pushTx_of_fullP (hf : s.tx.fullP s.cfg.tx = true) :
    s.pushTx b = .ok (s.raise (.pushFull .txq), false) := by
  rw [State.pushTx_eq, Queue.push_of_fullP hf]

theorem State.pushTx_of_not_fullP (hf : s.tx.fullP s.cfg.tx = false) (hp : s.tx.prod < s.cfg.cTx) :
    s.pushTx b = .ok ({ s with tx := s.tx.pushed s.cfg.tx b }, true) := by
  rw [State.pushTx_eq, Queue.push_of_not_fullP hf hp]

/-- N.FIRE shows the notification of one byte (R222). -/
theorem State.fire_eq (s : State) : s.fire = { s with outs := s.outs ++ notices s.ncb 1 } := by
  unfold State.fire
  split
  · next id hn =>
    have hpulse : notices s.ncb 1 = [.notify id] := by rw [hn]; rfl
    rw [hpulse]
    rfl
  · next hn =>
    have hnone : notices s.ncb 1 = [] := by rw [hn]; rfl
    rw [hnone, List.append_nil]

/-- With no P.POLL running the task's turn is one E.EMIT (R204). -/
theorem step_of_emit (hs : s.sched = .task :: rest) (ha : s.pollActive = false) :
    step s = ({ s with sched := rest } : State).emit := by
  rw [step_eq, fetch_of_emit hs ha]

/-- A full TXQ aborts the rest of the frame (R204). -/
theorem State.emit_of_fullP (he : s.encRem = b :: bs) (hf : s.tx.fullP s.cfg.tx = true) :
    s.emit = .next { s with encRem := [], encSent := 0, events := s.events ++ [.pushFull .txq, .encAbort s.encSent],
                            outs := s.outs ++ [.cmdDone false] } := by
  have hevents : s.events ++ [.pushFull .txq, .encAbort s.encSent] =
      s.events ++ [.pushFull .txq] ++ [.encAbort s.encSent] := List.append_cons ..
  rw [hevents]
  simp only [State.emit, he, State.pushTx_of_fullP hf]
  rfl

/-- The last byte completes the operation (R204). -/
theorem State.emit_of_last (he : s.encRem = [b]) (hf : s.tx.fullP s.cfg.tx = false) (hp : s.tx.prod < s.cfg.cTx) :
    s.emit = .next { s with tx := s.tx.pushed s.cfg.tx b, encRem := [], encSent := 0,
                            outs := s.outs ++ notices s.ncb 1 ++ [.cmdDone true] } := by
  simp only [State.emit, he, State.pushTx_of_not_fullP hf hp, State.fire_eq]
  rfl

/-- A byte with more to come (R204). -/
theorem State.emit_of_more (he : s.encRem = b :: bs) (hne : bs ≠ []) (hf : s.tx.fullP s.cfg.tx = false)
    (hp : s.tx.prod < s.cfg.cTx) :
    s.emit = .next { s with tx := s.tx.pushed s.cfg.tx b, encRem := bs, encSent := s.encSent + 1,
                            outs := s.outs ++ notices s.ncb 1 } := by
  obtain ⟨c, cs, rfl⟩ := List.exists_cons_of_ne_nil hne
  simp only [State.emit, he, State.pushTx_of_not_fullP hf hp, State.fire_eq]

end

/-- Settles O45, by whether TXQ is full and whether the byte is the last. -/
theorem emitOneByte : Obligations.EmitOneByte := by
  intro s rest b bs hs ha he hp
  rw [step_of_emit hs ha]
  split_ifs with hfull hlast
  · exact State.emit_of_fullP (s := { s with sched := rest }) he (Queue.fullP_iff.2 hfull)
  · subst hlast
    exact State.emit_of_last (s := { s with sched := rest }) he (beq_false_of_ne hfull) hp
  · exact State.emit_of_more (s := { s with sched := rest }) he hlast (beq_false_of_ne hfull) hp

/-! ## The room of a queue (R72) -/

section
variable {α : Type} {g : Geometry} {q : Queue α} {x : α} {xs : List α}

/-- The producer side sees the queue full exactly when it has no room (R72, R121). -/
theorem Queue.fullP_iff_room (h : q.inv g) : q.fullP g = true ↔ q.room g = 0 := by
  obtain ⟨hr, -⟩ := id h
  constructor
  · intro hf
    have hwrap : advance g q.prod = q.consView g := Queue.fullP_iff.1 hf
    by_contra hne
    have hstep := dist_advance_right (Queue.consView_lt hr) h.prod_lt (Nat.lt_of_sub_ne_zero hne)
    rw [hwrap, dist_self (Queue.consView_lt hr)] at hstep
    cases hstep
  · intro hroom
    by_contra hf
    have hused := Queue.dist_consView_prod_lt h (Bool.eq_false_iff.2 hf)
    exact Nat.sub_ne_zero_of_lt hused hroom

theorem Queue.not_fullP_of_room (h : q.inv g) (hroom : 0 < q.room g) : q.fullP g = false :=
  Bool.eq_false_iff.2 fun hf => hroom.ne' ((Queue.fullP_iff_room h).1 hf)

/-- A push takes one slot of the room (R72). -/
theorem Queue.room_pushed (h : q.inv g) (hroom : 0 < q.room g) : (q.pushed g x).room g + 1 = q.room g := by
  obtain ⟨hr, -⟩ := id h
  have hused := Queue.dist_consView_prod_lt h (Queue.not_fullP_of_room h hroom)
  have hstep := dist_advance_right (Queue.consView_lt hr) h.prod_lt hused
  change g.cap - 1 - dist g (q.consView g) (advance g q.prod) + 1 = g.cap - 1 - dist g (q.consView g) q.prod
  omega

/-- The queue after successful pushes of a list of items, in order (R122). -/
def Queue.pushedAll (g : Geometry) (q : Queue α) (xs : List α) : Queue α := xs.foldl (Queue.pushed g) q

/-- Pushes for which there is room keep the invariant, append to the live elements, and use up the room (R23, R72, R128). -/
theorem Queue.pushedAll_of_room (h : q.inv g) (hroom : xs.length ≤ q.room g) :
    (q.pushedAll g xs).inv g ∧ (q.pushedAll g xs).live g = q.live g ++ xs ∧
      (q.pushedAll g xs).room g + xs.length = q.room g := by
  induction xs generalizing q with
  | nil => exact ⟨h, (List.append_nil _).symm, rfl⟩
  | cons x xs ih =>
    rw [List.length_cons] at hroom
    have hpos : 0 < q.room g := by omega
    have hf := Queue.not_fullP_of_room h hpos
    have hone := Queue.room_pushed (x := x) h hpos
    obtain ⟨hinv, hlive, hleft⟩ := ih (Queue.inv_pushed (x := x) h hf) (by omega)
    refine ⟨hinv, hlive.trans ?_, ?_⟩
    · rw [Queue.live_pushed h hf, ← List.append_cons]
    · change ((q.pushed g x).pushedAll g xs).room g + (xs.length + 1) = q.room g
      omega

end

/-! ## The run of an operation (R204, R205) -/

section
variable {s : State} {rest : List Turn} {b : Byte} {bs xs ys : List Byte}

theorem notices_add (cb : Option Nat) (m n : Nat) : notices cb m ++ notices cb n = notices cb (m + n) := by
  cases cb with
  | none => rfl
  | some id => exact List.replicate_append_replicate

/-- The state of an encoder operation that has pushed the bytes `xs` since `s` and has `ys` left, with the turns `rest` to come
(R204, R222). -/
def State.emitted (s : State) (xs ys : List Byte) (rest : List Turn) : State :=
  { s with sched := rest, tx := s.tx.pushedAll s.cfg.tx xs, encRem := ys, encSent := s.encSent + xs.length,
           outs := s.outs ++ notices s.ncb xs.length }

theorem State.emitted_nil (hs : s.sched = rest) (he : s.encRem = ys) : s.emitted [] ys rest = s := by
  have hnone : notices s.ncb 0 = [] := by cases s.ncb <;> rfl
  subst hs he
  simp only [State.emitted, List.length_nil, hnone, List.append_nil]
  rfl

/-- A byte pushed and then the bytes `xs` are `b :: xs`. -/
theorem State.emitted_emitted_singleton (s : State) (b : Byte) (bs xs ys : List Byte) (r rest : List Turn) :
    (s.emitted [b] bs r).emitted xs ys rest = s.emitted (b :: xs) ys rest := by
  have hcount : s.encSent + 1 + xs.length = s.encSent + (xs.length + 1) := by omega
  have houts : s.outs ++ notices s.ncb 1 ++ notices s.ncb xs.length = s.outs ++ notices s.ncb (xs.length + 1) := by
    rw [List.append_assoc, notices_add, Nat.add_comm]
  simp only [State.emitted, List.length_cons, List.length_nil, Nat.zero_add, hcount, houts]
  rfl

/-- One turn pushes one byte when there is room and it is not the last (R204). -/
theorem step_of_emit_more (hs : s.sched = .task :: rest) (ha : s.pollActive = false) (he : s.encRem = b :: bs)
    (hne : bs ≠ []) (hinv : s.tx.inv s.cfg.tx) (hroom : 0 < s.tx.room s.cfg.tx) :
    step s = .next (s.emitted [b] bs rest) :=
  (step_of_emit hs ha).trans
    (State.emit_of_more (s := { s with sched := rest }) he hne (Queue.not_fullP_of_room hinv hroom) hinv.prod_lt)

/-- As long as there is room and the frame has not ended, each turn of a run pushes one byte (R204, R205). -/
theorem State.run_emitted (k : Nat) (hs : s.sched = List.replicate xs.length .task ++ rest) (ha : s.pollActive = false)
    (he : s.encRem = xs ++ ys) (hne : ys ≠ []) (hinv : s.tx.inv s.cfg.tx) (hroom : xs.length ≤ s.tx.room s.cfg.tx) :
    Host.Core.run Sys2Proof.core (xs.length + k) s = Host.Core.run Sys2Proof.core k (s.emitted xs ys rest) := by
  induction xs generalizing s with
  | nil => rw [State.emitted_nil (rest := rest) (ys := ys) hs he, List.length_nil, Nat.zero_add]
  | cons b xs ih =>
    rw [List.length_cons] at hroom
    have hpos : 0 < s.tx.room s.cfg.tx := by omega
    have hfirst := step_of_emit_more hs ha he (List.append_ne_nil_of_right_ne_nil xs hne) hinv hpos
    have hone := Queue.room_pushed (x := b) hinv hpos
    have hfits : xs.length ≤ (s.tx.pushed s.cfg.tx b).room s.cfg.tx := by omega
    have hlater := ih (s := s.emitted [b] (xs ++ ys) (List.replicate xs.length .task ++ rest)) rfl ha rfl
      (Queue.inv_pushed hinv (Queue.not_fullP_of_room hinv hpos)) hfits
    calc Host.Core.run Sys2Proof.core ((b :: xs).length + k) s
        = Host.Core.run Sys2Proof.core (xs.length + k + 1) s := by rw [List.length_cons, Nat.add_right_comm]
      _ = Host.Core.run Sys2Proof.core (xs.length + k) (s.emitted [b] (xs ++ ys) _) := run_succ_of_step _ hfirst
      _ = Host.Core.run Sys2Proof.core k ((s.emitted [b] (xs ++ ys) _).emitted xs ys rest) := hlater
      _ = Host.Core.run Sys2Proof.core k (s.emitted (b :: xs) ys rest) := by rw [State.emitted_emitted_singleton]

theorem State.step_emitted (ha : s.pollActive = false) :
    step (s.emitted xs ys (.task :: rest)) = (s.emitted xs ys rest).emit :=
  step_of_emit (s := s.emitted xs ys (.task :: rest)) rfl ha

/-- The turn after `xs` that pushes the last byte completes the operation (R204). -/
theorem State.step_emitted_last (ha : s.pollActive = false) (hinv : s.tx.inv s.cfg.tx)
    (hroom : xs.length < s.tx.room s.cfg.tx) :
    step (s.emitted xs [b] (.task :: rest)) =
      .next { s.emitted (xs ++ [b]) [] rest with
                encSent := 0, outs := s.outs ++ notices s.ncb (xs.length + 1) ++ [.cmdDone true] } := by
  obtain ⟨hinv', -, hleft⟩ := Queue.pushedAll_of_room hinv hroom.le
  have hf : (s.tx.pushedAll s.cfg.tx xs).fullP s.cfg.tx = false := Queue.not_fullP_of_room hinv' (by omega)
  have htx : s.tx.pushedAll s.cfg.tx (xs ++ [b]) = (s.tx.pushedAll s.cfg.tx xs).pushed s.cfg.tx b := List.foldl_concat ..
  refine ((State.step_emitted ha).trans (State.emit_of_last rfl hf hinv'.prod_lt)).trans ?_
  rw [← notices_add, ← List.append_assoc]
  simp only [State.emitted, htx]

/-- The turn after `xs` that finds no room aborts the operation, and takes no byte back (R204, R205). -/
theorem State.step_emitted_full (ha : s.pollActive = false) (hinv : s.tx.inv s.cfg.tx)
    (hroom : xs.length = s.tx.room s.cfg.tx) :
    step (s.emitted xs (b :: bs) (.task :: rest)) =
      .next { s.emitted xs [] rest with
                encSent := 0, events := s.events ++ [.pushFull .txq, .encAbort (s.encSent + xs.length)],
                outs := s.outs ++ notices s.ncb xs.length ++ [.cmdDone false] } := by
  obtain ⟨hinv', -, hleft⟩ := Queue.pushedAll_of_room hinv hroom.le
  have hf : (s.tx.pushedAll s.cfg.tx xs).fullP s.cfg.tx = true := (Queue.fullP_iff_room hinv').2 (by omega)
  exact (State.step_emitted ha).trans (State.emit_of_fullP rfl hf)

end

/-- Settles O46: the run up to its last turn, which pushes the last byte or finds TXQ full. -/
theorem encoderRunPrefix : Obligations.EncoderRunPrefix := by
  intro s rest h ha hne
  refine ⟨fun hroom hs => ?_, fun hroom hs => ?_⟩
  · obtain ⟨xs, b, he⟩ := (List.eq_nil_or_concat' s.encRem).resolve_left hne
    obtain ⟨-, hlive, -⟩ := Queue.pushedAll_of_room h.tx hroom
    have hlen : s.encRem.length = xs.length + 1 := he ▸ List.length_append
    rw [hlen] at hs hroom ⊢
    rw [List.replicate_succ', ← List.append_cons] at hs
    have hrun := (State.run_emitted 1 hs ha he (List.cons_ne_nil b []) h.tx (by omega)).trans
      (run_succ_of_step 0 (State.step_emitted_last ha h.tx hroom))
    exact ⟨_, hrun, he ▸ hlive, rfl, rfl, rfl, rfl⟩
  · obtain ⟨b, bs, hrest⟩ := List.exists_cons_of_ne_nil (mt List.drop_eq_nil_iff.1 (Nat.not_le.2 hroom))
    have hlen : (s.encRem.take (s.tx.room s.cfg.tx)).length = s.tx.room s.cfg.tx := List.length_take_of_le hroom.le
    have he : s.encRem = s.encRem.take (s.tx.room s.cfg.tx) ++ b :: bs := by rw [← hrest, List.take_append_drop]
    rw [List.replicate_succ', ← List.append_cons, ← hlen] at hs
    obtain ⟨-, hlive, -⟩ := Queue.pushedAll_of_room h.tx hlen.le
    have hrun := (State.run_emitted 1 hs ha he (List.cons_ne_nil b bs) h.tx hlen.le).trans
      (run_succ_of_step 0 (State.step_emitted_full ha h.tx hlen))
    rw [hlen] at hrun
    exact ⟨_, hrun, hlive, rfl, rfl, rfl, rfl⟩

end Sys2Proof.Machine
end

section
/-! The parser's state register over a whole step: it moves with a byte parsed or with RESET, and with nothing else (R254, R255, R264,
R270). -/

namespace Sys2Proof.Machine

section
variable {s t u : State} {c : Byte}

/-! ## Operations that keep the parser's state -/

theorem pstate_of_classRow {i : Instr} (hi : isClassRow i = true) (he : exec i s = .next t) : t.pstate = s.pstate := by
  cases i with
  | clsDigit07 d => cases he; rfl
  | clsDigit89 d => cases he; rfl
  | clsMinus => cases he; rfl
  | clsComma => cases he; rfl
  | clsDot => cases he; rfl
  | clsOther b =>
    obtain ⟨-, ho⟩ := (onRow_next_iff _ _ _).1 he
    cases ho
    rfl
  | _ => cases hi

theorem State.pstate_of_popFq {r : Option View} (h : s.popFq = .ok (u, r)) : u.pstate = s.pstate := by
  obtain ⟨-, -, rfl⟩ | ⟨-, -, -, -, -, rfl⟩ := State.popFq_cases h <;> rfl

theorem State.pstate_of_pushTx {b : Byte} {ok : Bool} (h : s.pushTx b = .ok (u, ok)) : u.pstate = s.pstate := by
  obtain ⟨-, -, rfl⟩ | ⟨-, -, -, rfl⟩ := State.pushTx_cases h <;> rfl

theorem State.pstate_of_popRx {r : Option Byte} (h : s.popRx = .ok (u, r)) : u.pstate = s.pstate := by
  obtain ⟨-, -, rfl⟩ | ⟨-, -, -, -, -, rfl⟩ := State.popRx_cases h <;> rfl

theorem State.pstate_of_payloadVals {view : View} {ty : PType} {data : List Byte} {vals : List Val}
    (h : s.payloadVals view ty data = .ok (vals, u)) : u.pstate = s.pstate := by
  obtain ⟨k, rfl⟩ | rfl := State.payloadVals_ok h <;> rfl

/-- D.POLL touches the scratch bytes of a String payload, and no register of the parser (R170, R184). -/
theorem pstate_of_dPoll (he : execDPoll s = .next t) : t.pstate = s.pstate := by
  obtain ⟨v, hv, rfl⟩ | ⟨v, view, hv, -, hview⟩ := execDPoll_next he
  · exact (State.pstate_of_popFq hv :)
  · have hpop : v.pstate = s.pstate := State.pstate_of_popFq hv
    obtain rfl | ⟨r, rfl⟩ | ⟨r, data, -, hdel⟩ := State.dispatchView_next hview
    · exact hpop
    · exact hpop
    · obtain ⟨e, rfl⟩ | ⟨w, ty, vals, hw, rfl⟩ := State.deliver_next hdel
      · exact hpop
      · calc w.pstate = _ := State.pstate_of_payloadVals hw
          _ = v.pstate := State.noteTruncation_pstate _ _
          _ = s.pstate := hpop

theorem pstate_of_onIdle (he : onIdle s (.next u) = .next t) (hu : u.pstate = s.pstate) : t.pstate = s.pstate := by
  obtain ⟨-, ho⟩ := (onIdle_next_iff _ _ _).1 he
  cases ho
  exact hu

theorem pstate_of_acceptFrame {n : Nat} {path : List Byte} {texts : List (List Byte)}
    (he : onIdle s (acceptFrame s n path texts) = .next t) : t.pstate = s.pstate := by
  obtain ⟨-, hacc⟩ := (onIdle_next_iff _ _ _).1 he
  obtain ⟨-, rfl⟩ := (acceptFrame_next_iff _ _ _ _ _).1 hacc
  rfl

theorem pstate_of_eFloat {path : List Byte} {vals : List Word} (he : execEFloat path vals s = .next t) :
    t.pstate = s.pstate := by
  unfold execEFloat at he
  split at he
  · exact pstate_of_acceptFrame he
  · obtain ⟨-, hr⟩ := (onIdle_next_iff _ _ _).1 he
    cases hr

/-- No command moves the parser: P.POLL's iterations are steps of their own (R160). -/
theorem pstate_of_commandRow {i : Instr} (hi : isCommandRow i = true) (he : exec i s = .next t) : t.pstate = s.pstate := by
  cases i with
  | pPoll => exact pstate_of_onIdle he rfl
  | dPoll => exact pstate_of_dPoll he
  | nSet cb => exact pstate_of_onIdle he rfl
  | eNone path => exact pstate_of_acceptFrame he
  | eInt path vals => exact pstate_of_acceptFrame he
  | eFloat path vals => exact pstate_of_eFloat he
  | eStr path strs => exact pstate_of_acceptFrame he
  | cmdReserved0 => exact pstate_of_onIdle he rfl
  | cmdReserved8F low => exact pstate_of_onIdle he rfl
  | _ => cases hi

theorem pstate_of_emit (he : s.emit = .next t) : t.pstate = s.pstate := by
  obtain ⟨-, rfl⟩ | ⟨b, c, cs, v, -, hv, rfl⟩ | ⟨b, v, -, hv, rfl⟩ | ⟨b, cs, v, -, hv, rfl⟩ := State.emit_cases he
  · rfl
  · exact (State.fire_pstate _).trans (State.pstate_of_pushTx hv :)
  · exact (State.fire_pstate _).trans (State.pstate_of_pushTx hv :)
  · exact (State.pstate_of_pushTx hv :)

/-- What the transport and the synchronisers may change is none of the parser's (R264). -/
theorem State.OutsideMove.pstate_eq (h : s.OutsideMove t) : t.pstate = s.pstate := by
  obtain ⟨rx, tx, events, outs, -, -, -, rfl⟩ := h
  rfl

/-! ## The steps that move the parser -/

/-- A step out of `s` into `t` that is an iteration of P.POLL over the byte `c` (R140, R160). -/
def State.ParsesInto (s : State) (c : Byte) (t : State) : Prop :=
  s.pollActive = true ∧ ∃ rest q, s.sched = .task :: rest ∧ s.rx.pop s.cfg.rx = .ok (some (c, q)) ∧
    ({ s with sched := rest, rx := q } : State).parseByte c = .next t

/-- A pop of RXQ that yields a byte changes RXQ alone (R124). -/
theorem State.pop_of_popRx_some (h : s.popRx = .ok (u, some c)) :
    ∃ q, s.rx.pop s.cfg.rx = .ok (some (c, q)) ∧ u = { s with rx := q } := by
  unfold State.popRx at h
  split at h
  · cases h
  · cases h
  · next b q hq =>
    cases h
    exact ⟨q, hq, rfl⟩

/-- RESET puts the parser in WaitStart (R270). -/
theorem pstate_of_rst (he : execRst s = .next t) : t.pstate = .waitStart := by
  unfold execRst at he
  split at he
  · cases he
  · cases he
    rfl

/-- A transaction at an outside port keeps the parser's state, unless it is RESET (R264, R270). -/
theorem pstate_of_transaction {p : PortSig} {i : Instr} (hp : PortSig.external p = true) (hd : decode (.port p) = .ok i)
    (he : exec i s = .next t) : t.pstate = s.pstate ∨ (t.pstate = .waitStart ∧ p = .rst 1) := by
  cases p with
  | dbyte b => exact .inl (pstate_of_classRow (isClassRow_of_decode hd) he)
  | cmd sig => exact .inl (pstate_of_commandRow (isCommandRow_of_decode hd) he)
  | qProducer key who item => exact .inl (outsideMove_transaction rfl hp hd he).pstate_eq
  | qConsumer key who q => exact .inl (outsideMove_transaction rfl hp hd he).pstate_eq
  | rx valid data => exact .inl (outsideMove_transaction rfl hp hd he).pstate_eq
  | tx req => exact .inl (outsideMove_transaction rfl hp hd he).pstate_eq
  | rst r =>
    by_cases hr : r = 1
    · cases eq_of_ite_ok_eq_ok hd
      exact .inr ⟨pstate_of_rst he, congrArg PortSig.rst hr⟩
    · cases (if_neg hr).symm.trans hd

/-- A step that goes on keeps the parser's state, is RESET, or parses a byte (R254, R255, R264). -/
theorem pstate_of_step (h : step s = .next t) :
    t.pstate = s.pstate ∨ (t.pstate = .waitStart ∧ ∃ rest, s.sched = .port (.rst 1) :: rest) ∨ ∃ c, s.ParsesInto c t := by
  cases stepTaken_of_step h with
  | noTurn => exact .inl rfl
  | idlePort => exact .inl rfl
  | @transaction p rest i _ hs hp hd he =>
    obtain hkeep | ⟨hstart, rfl⟩ := pstate_of_transaction hp hd he
    · exact .inl hkeep
    · exact .inr (.inl ⟨hstart, rest, hs⟩)
  | @pollByte rest v _ c i hs ha hpop hd he =>
    obtain ⟨q, hq, rfl⟩ := State.pop_of_popRx_some hpop
    have hparse : ({ s with sched := rest, rx := q } : State).parseByte c = .next t := by
      simp only [State.parseByte, hd, he]
    exact .inr (.inr ⟨c, ha, rest, q, hs, hq, hparse⟩)
  | pollEnd _ _ hpop => exact .inl (State.pstate_of_popRx hpop :)
  | emitByte _ _ he => exact .inl (pstate_of_emit he :)
  | syncP => exact .inl (State.syncP_pstate _ _)
  | syncC => exact .inl (State.syncC_pstate _ _)

end

end Sys2Proof.Machine
end

section
/-! The parser's Error state: the bytes that enter it and what they leave of the indices, and the one byte that leaves it (R254, R255). -/

namespace Sys2Proof.Machine

section
variable {s t u : State} {c : Byte} {o : Host.Outcome State Fault Refusal}

/-! ## The way out -/

/-- Of the bytes parsed in Error the open brace alone leaves it, at the start of a frame (R156, R157, R255). -/
theorem State.parseByte_leavesError (h : s.parseByte c = .next t) (hst : s.pstate = .error) (ht : t.pstate ≠ .error) :
    c = chLBrace ∧ t = s.beginFrame := by
  rcases Nat.lt_or_ge s.w s.cfg.size with hw | hw
  · rw [State.parseByte_of_lt hw] at h
    simp only [State.byteEffect, hst] at h
    split at h
    · next hc =>
      cases h
      exact ⟨hc, rfl⟩
    · cases h
      exact absurd hst ht
  · rw [State.parseByte_of_guard hw] at h
    cases h
    exact absurd rfl ht

/-! ## The ways in -/

/-- The conditions that drop a frame with its indices: the overflow, and a completed frame that finds FQ full (R141, R154). -/
def State.dropsFrame (s : State) (c : Byte) : Prop :=
  s.cfg.size ≤ s.w ∨ (s.pstate = .readData ∧ c = chRBrace ∧ (s.fq.prod + 1) % s.cfg.cFq = s.fq.cons)

/-- The four mismatches: the parser waits for a tag or its colon, and the byte is another (R145, R147, R151, R153). -/
def State.mismatches (s : State) (c : Byte) : Prop :=
  (s.pstate = .waitP ∧ c ≠ chP) ∨ (s.pstate = .waitPColon ∧ c ≠ chColon) ∨ (s.pstate = .waitD ∧ c ≠ chD) ∨
    (s.pstate = .waitDColon ∧ c ≠ chColon)

/-- Where a state's own byte leads elsewhere, it is another byte that entered Error. -/
theorem next_of_ite_of_ne_error {p : Prop} [Decidable p] (h : (if p then .next u else o) = .next t)
    (hu : u.pstate ≠ .error) (ht : t.pstate = .error) : ¬p ∧ o = .next t := by
  split at h
  · cases h
    exact absurd ht hu
  · next hp => exact ⟨hp, h⟩

/-- The two rows of a state that waits for its own byte: Error was entered by the other one, with an event alone. -/
theorem State.enterError_of_ite {own : Byte} {e : Event}
    (h : (if c = own then .next u else .next (s.enterError e) : Host.Outcome State Fault Refusal) = .next t)
    (hu : u.pstate ≠ .error) (ht : t.pstate = .error) : c ≠ own ∧ ∃ e, t = s.enterError e := by
  obtain ⟨hc, henter⟩ := next_of_ite_of_ne_error h hu ht
  cases henter
  exact ⟨hc, e, rfl⟩

/-- A byte that fits enters Error by one of the four mismatches, or as the close brace of a dropped frame (R254). -/
theorem State.byteEffect_entersError (h : s.byteEffect c = .next t) (hne : s.pstate ≠ .error) (ht : t.pstate = .error) :
    (s.mismatches c ∧ ∃ e, t = s.enterError e) ∨ (s.pstate = .readData ∧ c = chRBrace ∧ execPRdRbrace s = .next t) := by
  cases hst : s.pstate with
  | error => exact absurd hst hne
  | waitStart =>
    simp only [State.byteEffect, hst] at h
    obtain ⟨-, hkeep⟩ := next_of_ite_of_ne_error h nofun ht
    cases hkeep
    exact absurd ht hne
  | readPath =>
    simp only [State.byteEffect, hst] at h
    obtain ⟨-, hstore⟩ := next_of_ite_of_ne_error h nofun ht
    cases hstore
    exact absurd ht hne
  | readData =>
    simp only [State.byteEffect, hst] at h
    split at h
    · next hc => exact .inr ⟨rfl, hc, h⟩
    · cases h
      exact absurd ht hne
  | waitP =>
    simp only [State.byteEffect, hst] at h
    obtain ⟨hc, henter⟩ := State.enterError_of_ite h nofun ht
    exact .inl ⟨.inl ⟨hst, hc⟩, henter⟩
  | waitPColon =>
    simp only [State.byteEffect, hst] at h
    obtain ⟨hc, henter⟩ := State.enterError_of_ite h nofun ht
    exact .inl ⟨.inr (.inl ⟨hst, hc⟩), henter⟩
  | waitD =>
    simp only [State.byteEffect, hst] at h
    obtain ⟨hc, henter⟩ := State.enterError_of_ite h nofun ht
    exact .inl ⟨.inr (.inr (.inl ⟨hst, hc⟩)), henter⟩
  | waitDColon =>
    simp only [State.byteEffect, hst] at h
    obtain ⟨hc, henter⟩ := State.enterError_of_ite h nofun ht
    exact .inl ⟨.inr (.inr (.inr ⟨hst, hc⟩)), henter⟩

/-- The close brace enters Error when FQ is full, and then the indices are cleared (R154). -/
theorem execPRdRbrace_entersError (h : execPRdRbrace s = .next t) (ht : t.pstate = .error) :
    (s.fq.prod + 1) % s.cfg.cFq = s.fq.cons ∧ ∃ (v : State) (e : Event), t = v.resetIdx.enterError e := by
  obtain ⟨-, ⟨u, -, rfl⟩ | ⟨u, hu, rfl⟩⟩ := execPRdRbrace_cases h
  · cases ht
  · obtain ⟨-, hfull, -⟩ | ⟨hok, -⟩ := State.pushFq_cases hu
    · exact ⟨Queue.fullP_iff.1 hfull, u, _, rfl⟩
    · cases hok

/-- A byte enters Error by dropping the frame and its indices, or by a mismatch that keeps them (R254). -/
theorem State.parseByte_entersError (h : s.parseByte c = .next t) (hne : s.pstate ≠ .error) (ht : t.pstate = .error) :
    (s.dropsFrame c ∧ ∃ (v : State) (e : Event), t = v.resetIdx.enterError e) ∨
    (s.mismatches c ∧ ∃ e, t = s.enterError e) := by
  rcases Nat.lt_or_ge s.w s.cfg.size with hw | hw
  · rw [State.parseByte_of_lt hw] at h
    obtain hmiss | ⟨hst, hc, hend⟩ := State.byteEffect_entersError h hne ht
    · exact .inr hmiss
    · obtain ⟨hfull, hclear⟩ := execPRdRbrace_entersError hend ht
      exact .inl ⟨.inr ⟨hst, hc, hfull⟩, hclear⟩
  · rw [State.parseByte_of_guard hw] at h
    cases h
    exact .inl ⟨.inl hw, s, _, rfl⟩

end

/-! ## The obligations -/

/-- Settles O31: of the steps that move the parser's state, RESET and the open brace leave Error. -/
theorem errorExit : Obligations.ErrorExit := by
  intro s t hst h ht
  obtain hkeep | hreset | ⟨c, ha, rest, q, hturn, hpop, hparse⟩ := pstate_of_step h
  · exact absurd (hkeep.trans hst) ht
  · exact .inr hreset
  · obtain ⟨rfl, rfl⟩ := State.parseByte_leavesError hparse hst ht
    exact .inl ⟨rfl, rfl, rfl, rfl, rfl, rfl, ha, ⟨rest, hturn⟩, q, hpop⟩

/-- Settles O32: of the steps that move the parser's state, RESET never enters Error, and a byte does in six ways. -/
theorem errorEntry : Obligations.ErrorEntry := by
  intro s t hne h ht
  obtain hkeep | ⟨hstart, -⟩ | ⟨c, ha, rest, q, hturn, hpop, hparse⟩ := pstate_of_step h
  · exact absurd (hkeep.symm.trans ht) hne
  · cases hstart.symm.trans ht
  · refine ⟨⟨ha, rest, hturn⟩, c, q, hpop, ?_⟩
    obtain ⟨hdrop, u, e, rfl⟩ | ⟨hmiss, e, rfl⟩ := State.parseByte_entersError hparse hne ht
    · exact .inl ⟨hdrop, rfl, rfl, rfl, rfl, rfl⟩
    · exact .inr ⟨hmiss, rfl, rfl, rfl, rfl, rfl⟩

end Sys2Proof.Machine
end

section
/-! RESET, idle and in flight (R270, R271; log entry 17), and the obligation it settles. -/

namespace Sys2Proof.Machine

/-- An operation in flight is a running P.POLL or an encoder with bytes left (R271). -/
theorem State.busy_eq_true_iff (s : State) : s.busy = true ↔ s.pollActive = true ∨ s.encRem ≠ [] := by
  simp [State.busy]

/-- RESET goes on when nothing is in flight (R270). -/
theorem execRst_of_idle {s : State} (h : s.idle) : execRst s = .next s.resetState :=
  if_neg (Bool.eq_false_iff.1 (s.busy_eq_false.2 h))

/-- RESET faults when an operation is in flight (R271). -/
theorem execRst_of_busy {s : State} (h : s.busy = true) : execRst s = .fault .resetBusy :=
  if_pos h

/-- Settles O60: the reset state, written out field by field, when idle, and the fault in flight. -/
theorem resetRestoresState : Obligations.ResetRestoresState := by
  intro s
  constructor
  · intro hidle
    exact execRst_of_idle hidle
  · intro hbusy
    exact execRst_of_busy (s.busy_eq_true_iff.2 hbusy)

end Sys2Proof.Machine
end
